-- ==== Sys2Proof/Word.lean ====
section
/-! DEFINITION. The words of the console I/O block: a byte (R10), a key code (R11), a command word (R71). -/

namespace Sys2Proof

/-- R10: a byte is 8 bits, an unsigned value 0 to 255. -/
abbrev Byte := BitVec 8

/-- R11: a key code is an unsigned `KEY_W` = 32-bit integer; code 0 is the sentinel. -/
abbrev KeyCode := BitVec 32

/-- R71: a command word is 36 bits, `op` in bits 35..32 and `arg` in bits 31..0. -/
abbrev CmdWord := BitVec 36

end Sys2Proof
end

