-- ==== Sys2Proof/Syntax.lean ====
section
/-! DEFINITION. The operations of the block, one constructor per row of spec/opcode_table.json, what starts
one (a command word or the interrupt event), and the moves that a schedule is made of. -/

namespace Sys2Proof

/-- R72: the eight commands of the caller port and the receive-interrupt event. Operands are typed exactly
as R73 takes them, so every term of this type is a legal operation. -/
inductive Instr where
  /-- `console-init` (R190). -/
  | init
  /-- `read-key` (R144). -/
  | readKey
  /-- `write-key(code)` (R172); any 32-bit code. -/
  | writeKey (code : KeyCode)
  /-- ring `reset`, test harness (R106). -/
  | tRbReset
  /-- ring `try-push(byte)`, test harness (R107). -/
  | tRbTryPush (byte : Byte)
  /-- ring `is-empty`, test harness (R108). -/
  | tRbIsEmpty
  /-- ring `pop`, test harness (R109). -/
  | tRbPop
  /-- one byte transmitted, test harness (R176). -/
  | tTxByte (byte : Byte)
  /-- the receive interrupt asserted and taken (R121); an event, not a command word. -/
  | irqRx
  deriving DecidableEq, Repr

/-- What reaches the block's two input sides (R70): a command word on the caller port, or the interrupt
input taken. This is what a decoder is given and what an encoder answers. -/
inductive Stimulus where
  | command (w : CmdWord)
  | interrupt
  deriving DecidableEq, Repr

/-- One atomic move of a run (R14). `foreground` and `interrupt` name an agent of the block, which takes the
one step it has enabled; `envRx` and `envTxBusy` are the device environment's (R31, R33); `caller` is the
outside driving `cmd_valid` and `cmd_word` (R70). -/
inductive Move where
  /-- the foreground agent steps; `busyAfter` is R57's draw for `dev.tx_busy`, used only by a step that
  writes the data register. -/
  | foreground (busyAfter : Bool)
  /-- the interrupt agent steps: entry, one drain step, or exit. -/
  | interrupt
  /-- the device environment appends one received byte. -/
  | envRx (byte : Byte)
  /-- the device environment sets or clears the transmit-busy flag. -/
  | envTxBusy (busy : Bool)
  /-- the caller presents a command word, or presents none. -/
  | caller (cmd : Option CmdWord)
  deriving DecidableEq, Repr, Inhabited

end Sys2Proof
end

