-- ==== Sys2Proof/Config.lean ====
section
/-! DEFINITION. The implementation parameters of R9 and the one free value of the model (which move a run
takes next when nothing has been placed for it). -/

namespace Sys2Proof

/-- R79: one table entry, a byte sequence and the key code it stands for. -/
structure SequenceEntry where
  seq  : List Byte
  code : KeyCode
  deriving DecidableEq, Repr

/-- Where the device keeps something: a register offset, and a bit of that register where a single bit is
meant (R39, `P_DEV_MAP`). -/
structure Site where
  offset : Nat
  bit    : Option Nat
  deriving DecidableEq, Repr

/-- `P_DEV_MAP` (R9, R55): the offsets of the four device registers and the bit positions of the
transmit-busy flag, the receive-interrupt enable and the pending-receive indication. -/
structure DeviceMap where
  data      : Nat
  flags     : Nat
  intEnable : Nat
  intClear  : Nat
  txBusyBit : Nat
  rxIrqBit  : Nat
  rxPendBit : Nat
  deriving DecidableEq, Repr

/-- R9: the parameters of one implementation. None changes at run time. -/
structure Config where
  /-- `N`, the ring capacity in bytes. -/
  N : Nat
  /-- `MAX_SEQ_LEN`. -/
  maxSeqLen : Nat
  /-- `TABLE`, in scan order. -/
  table : List SequenceEntry
  /-- `P_CODES_ABOVE_BYTE`. -/
  codesAboveByte : Bool
  /-- `P_DEV_MAP`. -/
  devMap : DeviceMap
  /-- `P_RXPEND_SRC`, which register and bit the producer samples (90_conflicts C1). -/
  rxPendSrc : Site
  /-- `P_IE_VALUE`, the value written to the interrupt-enable register. -/
  ieValue : Nat
  deriving DecidableEq, Repr

/-- FREE VALUE (log 2): the move a run takes at tick `n` of the model's clock when its agenda names none.
R14 leaves the interleaving, the bytes received, the busy draws and the caller's commands open, so nothing
constrains it. -/
opaque Config.freeMove : Nat → Move

/-- R9: `IW = max(1, ceil(log2 N))`, the width of a ring index. -/
def Config.indexWidth (c : Config) : Nat := max 1 (Nat.clog 2 c.N)

/-- DESIGN CHOICE (log 1): the parameters `State.reset` carries, the source's one table entry
(95_test_vectors E0) in the decoder vectors' ring of 8 bytes. R9 leaves all of them open. -/
def Config.atReset : Config where
  N := 8
  maxSeqLen := 4
  table := [{ seq := [0x1B#8, 0x5B#8, 0x41#8], code := 200#32 }]
  codesAboveByte := false
  devMap := { data := 0, flags := 0, intEnable := 0, intClear := 0, txBusyBit := 0, rxIrqBit := 0, rxPendBit := 0 }
  rxPendSrc := { offset := 0, bit := none }
  ieValue := 0

end Sys2Proof
end

