-- ==== Sys2Proof/WellFormed.lean ====
section
/-! DEFINITION. The named checks that admit a configuration (R80, R203), and which command words are legal,
as the rows of spec/opcode_table.json (R73, R74). -/

namespace Sys2Proof

/-- R203: the checks a configuration must pass, named as R80 names them. -/
inductive ConfigCheck where
  /-- `N ≥ 1`. -/
  | nAtLeastOne
  /-- `MAX_SEQ_LEN ≥ 1`. -/
  | maxSeqLenAtLeastOne
  /-- `WF_NONEMPTY`. -/
  | wfNonempty
  /-- `WF_MAXLEN`. -/
  | wfMaxLen
  /-- `WF_SEQ_UNIQUE`. -/
  | wfSeqUnique
  /-- `WF_CODE_UNIQUE`. -/
  | wfCodeUnique
  /-- `WF_CODE_NONZERO`. -/
  | wfCodeNonzero
  /-- `WF_CODE_ABOVE_BYTE`, only when `P_CODES_ABOVE_BYTE` is set. -/
  | wfCodeAboveByte
  deriving DecidableEq, Repr

/-- R203: the order in which the checks are named. -/
def ConfigCheck.order : List ConfigCheck :=
  [.nAtLeastOne, .maxSeqLenAtLeastOne, .wfNonempty, .wfMaxLen, .wfSeqUnique, .wfCodeUnique, .wfCodeNonzero,
   .wfCodeAboveByte]

/-- R80: what each named check asks of a configuration. -/
def Config.passes (c : Config) : ConfigCheck → Bool
  | .nAtLeastOne => decide (1 ≤ c.N)
  | .maxSeqLenAtLeastOne => decide (1 ≤ c.maxSeqLen)
  | .wfNonempty => c.table.all fun e => decide (1 ≤ e.seq.length)
  | .wfMaxLen => c.table.all fun e => decide (e.seq.length ≤ c.maxSeqLen)
  | .wfSeqUnique => decide (c.table.Pairwise fun e f => e.seq ≠ f.seq)
  | .wfCodeUnique => decide (c.table.Pairwise fun e f => e.code ≠ f.code)
  | .wfCodeNonzero => c.table.all fun e => decide (e.code ≠ 0)
  | .wfCodeAboveByte => !c.codesAboveByte || c.table.all fun e => decide (255 < e.code.toNat)

/-- R203: the first check that fails, in the order above; `none` when the configuration is admitted. -/
def Config.firstFailure (c : Config) : Option ConfigCheck :=
  ConfigCheck.order.find? fun k => !c.passes k

/-- R80: the configuration is admitted. -/
abbrev Config.Admitted (c : Config) : Prop := c.firstFailure = none

/-- One `CMD36` row of spec/opcode_table.json. -/
structure OpcodeRow where
  mnemonic : String
  pattern  : CmdWord
  mask     : CmdWord
  deriving DecidableEq, Repr

/-- The `CMD36` rows of spec/opcode_table.json, in its order (the table's ninth row, IRQ_RX, is an event and
has no word). -/
def opcodeRows : List OpcodeRow :=
  [{ mnemonic := "INIT", pattern := 0x100000000#36, mask := 0xFFFFFFFFF#36 },
   { mnemonic := "READ_KEY", pattern := 0x200000000#36, mask := 0xFFFFFFFFF#36 },
   { mnemonic := "WRITE_KEY", pattern := 0x300000000#36, mask := 0xF00000000#36 },
   { mnemonic := "T_RB_RESET", pattern := 0x800000000#36, mask := 0xFFFFFFFFF#36 },
   { mnemonic := "T_RB_TRY_PUSH", pattern := 0x900000000#36, mask := 0xFFFFFFF00#36 },
   { mnemonic := "T_RB_IS_EMPTY", pattern := 0xA00000000#36, mask := 0xFFFFFFFFF#36 },
   { mnemonic := "T_RB_POP", pattern := 0xB00000000#36, mask := 0xFFFFFFFFF#36 },
   { mnemonic := "T_TX_BYTE", pattern := 0xC00000000#36, mask := 0xFFFFFFF00#36 }]

/-- A word matches a row when the bits under the row's mask are the row's. -/
def OpcodeRow.matchesWord (r : OpcodeRow) (w : CmdWord) : Bool := w &&& r.mask == r.pattern

/-- R74: a word is legal when some row of the table matches it; otherwise it is reserved. -/
def CmdWord.legal (w : CmdWord) : Bool := opcodeRows.any fun r => r.matchesWord w

end Sys2Proof
end

