-- ==== Sys2Proof/Decode.lean ====
section
/-! DEFINITION. Decoding (R74, total on every 36-bit word) and encoding (R71 to R73), and the host's reading
of a table word. -/

namespace Sys2Proof

/-- R71: the `op` field, bits 35..32. -/
def CmdWord.op (w : CmdWord) : BitVec 4 := w.extractLsb' 32 4

/-- R71: the `arg` field, bits 31..0. -/
def CmdWord.arg (w : CmdWord) : BitVec 32 := w.extractLsb' 0 32

/-- R71: the word with the given fields. -/
def CmdWord.make (op : BitVec 4) (arg : BitVec 32) : CmdWord := op ++ arg

/-- R73: the operation has no operand, so `arg` must be 0. -/
def noOperand (arg : BitVec 32) (i : Instr) : Option Instr := if arg = 0 then some i else none

/-- R73: the operand is `arg[7:0]`, and `arg[31:8]` must be 0. -/
def byteOperand (arg : BitVec 32) (f : Byte → Instr) : Option Instr :=
  if arg.extractLsb' 8 24 = 0 then some (f (arg.extractLsb' 0 8)) else none

/-- R74: what a command word decodes to; `none` is a reserved word, on which acceptance raises
`F_ILLEGAL_CMD`. -/
def decodeWord (w : CmdWord) : Option Instr :=
  if w.op = 0x1#4 then noOperand w.arg .init
  else if w.op = 0x2#4 then noOperand w.arg .readKey
  else if w.op = 0x3#4 then some (.writeKey w.arg)
  else if w.op = 0x8#4 then noOperand w.arg .tRbReset
  else if w.op = 0x9#4 then byteOperand w.arg .tRbTryPush
  else if w.op = 0xA#4 then noOperand w.arg .tRbIsEmpty
  else if w.op = 0xB#4 then noOperand w.arg .tRbPop
  else if w.op = 0xC#4 then byteOperand w.arg .tTxByte
  else none

/-- R72: a command word decodes by R74; the interrupt taken is IRQ_RX. -/
def decode : Stimulus → Option Instr
  | .command w => decodeWord w
  | .interrupt => some .irqRx

/-- R73: the `arg` field that carries a byte operand, `zext_32(byte)`. -/
def byteArg (b : Byte) : BitVec 32 := (0#24) ++ b

/-- R72, R82: the stimulus that stands for an operation, written from the opcode map. -/
def encode : Instr → Stimulus
  | .init => .command (.make 0x1#4 0)
  | .readKey => .command (.make 0x2#4 0)
  | .writeKey code => .command (.make 0x3#4 code)
  | .tRbReset => .command (.make 0x8#4 0)
  | .tRbTryPush b => .command (.make 0x9#4 (byteArg b))
  | .tRbIsEmpty => .command (.make 0xA#4 0)
  | .tRbPop => .command (.make 0xB#4 0)
  | .tTxByte b => .command (.make 0xC#4 (byteArg b))
  | .irqRx => .interrupt

/-- The operation this decoder reads from a table row's word `w`. A row of 36 bits is a command word, and
bits above 35 are no part of any word (R71). The table's event row has no bits: with `nbits = 0` the
stimulus is the interrupt taken (log 12). -/
def decodeTableWord (nbits w : Nat) : Option Instr :=
  if nbits = 0 then decode .interrupt
  else if w < 2 ^ 36 then decode (.command (BitVec.ofNat 36 w))
  else none

end Sys2Proof
end

