-- ==== Sys2Proof/Machine/State.lean ====
section
/-! DEFINITION. The state of the block and of the device environment (R20 to R35), the model's own fields
beside it, the reasons a step can stop, and the state after power-on (R230). -/

namespace Sys2Proof.Machine

/-- R201: the five fault codes the block records in `fault`. Raising one is a next state (R200), so none of
these is an outcome of a step by itself. -/
inductive FaultCode where
  /-- `F_NOT_INIT`, code 1: READ_KEY, WRITE_KEY before INIT; T_RB_TRY_PUSH, T_RB_IS_EMPTY, T_RB_POP before a
  ring reset. -/
  | notInit
  /-- `F_REINIT`, code 2: INIT a second time. -/
  | reinit
  /-- `F_POP_EMPTY`, code 3: `pop` on an empty ring. -/
  | popEmpty
  /-- `F_ILLEGAL_CMD`, code 4: a reserved command word accepted. -/
  | illegalCmd
  /-- `F_SPSC`, code 5: T_RB_RESET or T_RB_TRY_PUSH once the producer is armed. -/
  | spsc
  deriving DecidableEq, Repr

/-- R201: the number of a fault code. -/
def FaultCode.number : FaultCode → Nat
  | .notInit => 1
  | .reinit => 2
  | .popEmpty => 3
  | .illegalCmd => 4
  | .spsc => 5

/-- Why a step stops the machine. -/
inductive Fault where
  /-- Raised by `step` when an agent of the block is to move after a fault was recorded: R200 enables no
  step of the block any more and the run is over (log 7). Safe. -/
  | halted (code : FaultCode)
  /-- Raised by the ring's `MemRead` and `MemWrite` on an index outside `[0, N)`, which R13 gives no slot
  (log 9). No state that keeps the invariant of Safety.lean reaches it. Safe. -/
  | ringIndex (index : Nat)
  deriving DecidableEq, Repr

/-- Why a step has no meaning. -/
inductive Refusal where
  /-- Answered only by a rejected arm of `exec`; this model has none. Safe. -/
  | notModelled (mnemonic : String)
  /-- Answered by `step` when the configuration fails the named check: R203 gives such a configuration no
  runs. Safe. -/
  | badConfig (check : ConfigCheck)
  deriving DecidableEq, Repr

/-- R29: the foreground phase. -/
inductive Phase where
  /-- no command in progress. -/
  | idle
  /-- a READ_KEY in progress with its accumulation buffer. -/
  | readKey (acc : List Byte)
  /-- a WRITE_KEY or T_TX_BYTE in progress: the bytes still to transmit, and the response to come. -/
  | tx (q : List Byte) (v : KeyCode)
  /-- the block has faulted. -/
  | halted
  deriving DecidableEq, Repr

/-- Ring storage, as (index, byte) pairs; `Memory.wf` (Machine/Ops.lean) is its canonical form. -/
abbrev Memory := List Host.Cell

/-- The state. The first group is R20's record, field by field; the second is the model's own. -/
structure State where
  /-- `RB.mem` (R21). -/
  rbMem : Memory
  /-- `RB.head`, the next write index (R22). -/
  rbHead : Nat
  /-- `RB.tail`, the next read index (R23). -/
  rbTail : Nat
  /-- `rb_valid` (R24). -/
  rbValid : Bool
  /-- `init_done` (R26). -/
  initDone : Bool
  /-- `irq_armed` (R27). -/
  irqArmed : Bool
  /-- `isr_active` (R28). -/
  isrActive : Bool
  /-- `fg` (R29). -/
  fg : Phase
  /-- `fault` (R30); `none` is the spec's `none`. -/
  fault : Option FaultCode
  /-- `rsp_valid` (R35). -/
  rspValid : Bool
  /-- `rsp_data` (R35). -/
  rspData : BitVec 32
  /-- `dev.rxq`, oldest first (R31). -/
  rxq : List Byte
  /-- `dev.rx_irq_en` (R32). -/
  rxIrqEn : Bool
  /-- `dev.tx_busy` (R33). -/
  txBusy : Bool
  /-- `dev.tx_log`, oldest first (R34). -/
  txLog : List Byte
  /-- MODEL'S OWN (log 1): the configuration of R9, an argument of the spec's model carried here because
  `exec` and `step` take a state only. No step changes it. -/
  cfg : Config
  /-- MODEL'S OWN (log 3): the inputs `cmd_valid` and `cmd_word` of the caller port (R70). -/
  port : Option CmdWord
  /-- MODEL'S OWN (log 2): the moves placed for the coming steps, next first. -/
  agenda : List Move
  /-- MODEL'S OWN (log 2): how many steps have been taken, the argument of the free value. -/
  clock : Nat
  deriving DecidableEq, Repr

/-- R230: power-on. What R230 leaves unspecified (`RB.mem`, `RB.head`, `RB.tail`, `rsp_data`, `dev.rxq`,
`dev.tx_busy`) holds the value that logs 4 and 5 name, each a DESIGN CHOICE; `cfg` is log 1's. -/
def State.reset : State where
  rbMem := []
  rbHead := 0
  rbTail := 0
  rbValid := false
  initDone := false
  irqArmed := false
  isrActive := false
  fg := .idle
  fault := none
  rspValid := false
  rspData := 0
  rxq := []
  rxIrqEn := false
  txBusy := false
  txLog := []
  cfg := Config.atReset
  port := none
  agenda := []
  clock := 0

end Sys2Proof.Machine
end

