-- ==== Sys2Proof/Machine/Operands.lean ====
section
/-! DEFINITION. The operand and response values (R12, R76), and the three lookups of the sequence table with
the encoder's map over them (R141 to R143, R170). -/

namespace Sys2Proof.Machine

/-- R12 `zext_32` of a byte. -/
def zext32 (b : Byte) : BitVec 32 := b.setWidth 32

/-- R12 `v[7:0]` of a key code. -/
def lowByte (code : KeyCode) : Byte := code.extractLsb' 0 8

/-- R76: the response of a Boolean result, 1 or 0. -/
def boolResponse (b : Bool) : BitVec 32 := if b then 1 else 0

/-- R141 `is_prefix_of(c, e)`, the non-strict test. -/
def isPrefixOf (c : List Byte) (e : SequenceEntry) : Bool :=
  decide (c.length ≤ e.seq.length) && decide (e.seq.take c.length = c)

/-- R141 `is_strict_prefix_of(c, e)`. -/
def isStrictPrefixOf (c : List Byte) (e : SequenceEntry) : Bool :=
  decide (c.length < e.seq.length) && decide (e.seq.take c.length = c)

/-- R141 `strict_prefix_any(c)`. -/
def strictPrefixAny (table : List SequenceEntry) (c : List Byte) : Bool :=
  table.any (isStrictPrefixOf c)

/-- R142 `exact_code(c)`: the code of the entry whose sequence is `c`, or 0. -/
def exactCode (table : List SequenceEntry) (c : List Byte) : KeyCode :=
  match table.find? (fun e => decide (e.seq = c)) with
  | some e => e.code
  | none => 0

/-- R143 `code_lookup(k)`: the sequence of the entry whose code is `k`. -/
def codeLookup (table : List SequenceEntry) (k : KeyCode) : Option (List Byte) :=
  (table.find? (fun e => decide (e.code = k))).map (·.seq)

/-- R170 `encode(k)`: the table's sequence for `k`, or its low byte raw. -/
def encodeKey (table : List SequenceEntry) (k : KeyCode) : List Byte :=
  match codeLookup table k with
  | some q => q
  | none => [lowByte k]

end Sys2Proof.Machine
end

