-- ==== Sys2Proof/Machine/Ops.lean ====
section
/-! DEFINITION. The shared operations: ring storage (R13, R21), completing a command (R76), raising a fault
(R200), the device accesses (R13, R56, R57), and the acceptance of a command (R77). -/

namespace Sys2Proof.Machine

/-- The outcome of an operation of the block. -/
abbrev Result (α : Type) := Host.Outcome α Fault Refusal

/-- Go on with `f` when `o` answers a value; a stop stays the stop it is. -/
def Result.andThen {α β : Type} (o : Result α) (f : α → Result β) : Result β :=
  match o with
  | .next a => f a
  | .fault r => .fault r
  | .refused r => .refused r

/-! ### Ring storage -/

/-- DESIGN CHOICE (log 6): what a ring slot that nothing has written reads as. R21 leaves it arbitrary and
says that no rule reads such a slot. -/
def Memory.unlisted : Byte := 0

/-- The canonical form: indices strictly rising, and no entry that an unlisted slot would read as. -/
abbrev Memory.wf (m : Memory) : Prop :=
  m.Pairwise (fun x y => x.1 < y.1) ∧ ∀ c ∈ m, c.2 ≠ Memory.unlisted

/-- Every listed index lies in `[0, n)`. -/
abbrev Memory.within (m : Memory) (n : Nat) : Prop := ∀ c ∈ m, c.1 < n

/-- The byte at an index. -/
def Memory.read : Memory → Nat → Byte
  | [], _ => Memory.unlisted
  | c :: rest, i => if c.1 = i then c.2 else if i < c.1 then Memory.unlisted else Memory.read rest i

/-- The listing that begins with `b` at `i`, or does not list `i` when `b` is what an unlisted slot reads
as. -/
def Memory.place (i : Nat) (b : Byte) (rest : Memory) : Memory :=
  if b = Memory.unlisted then rest else (i, b) :: rest

/-- The storage with the byte at index `i` set to `b`, in canonical form again. -/
def Memory.write : Memory → Nat → Byte → Memory
  | [], i, b => Memory.place i b []
  | c :: rest, i, b =>
    if c.1 = i then Memory.place i b rest
    else if i < c.1 then Memory.place i b (c :: rest)
    else c :: Memory.write rest i b

/-- R13 `MemRead(i, 1)`: ring slot `i`, for `i` in `[0, N)`. -/
def memRead (i : Nat) (s : State) : Result Byte :=
  if i < s.cfg.N then .next (Memory.read s.rbMem i) else .fault (.ringIndex i)

/-- R13 `MemWrite(i, 1, b)`: ring slot `i` set to `b`, for `i` in `[0, N)`. -/
def memWrite (i : Nat) (b : Byte) (s : State) : Result State :=
  if i < s.cfg.N then .next { s with rbMem := Memory.write s.rbMem i b } else .fault (.ringIndex i)

/-! ### Completing a command, and taking a fault -/

/-- R76 `respond(v)`: the current command completes with response data `v`. -/
def respond (v : BitVec 32) (s : State) : State :=
  { s with rspValid := true, rspData := v, fg := .idle }

/-- R200 `raise Fault(c)`: the code is recorded and the foreground halts. Nothing else is saved or changed,
there is no handler, and no operation undoes it. -/
def raise (c : FaultCode) (s : State) : State :=
  { s with fault := some c, fg := .halted }

/-- R77 step 1: accepting a command clears `rsp_valid`. -/
def clearRsp (s : State) : State := { s with rspValid := false }

/-- The command word on the port has been taken (R77); the port presents none. -/
def takeCommand (s : State) : State := { s with port := none }

/-- R77: `cmd_ready`, the block can accept a command. -/
def State.cmdReady (s : State) : Bool :=
  decide (s.fg = .idle) && !s.isrActive && decide (s.fault = none)

/-- R77: the acceptance of a command whose first step is `body`. When the block is not ready the command
waits, which changes nothing (log 8). -/
def accept (body : State → Result State) (s : State) : Result State :=
  if s.cmdReady then body (clearRsp s) else .next s

/-- R74, R77: accepting a reserved word raises `F_ILLEGAL_CMD`. -/
def acceptReserved (s : State) : Result State :=
  accept (fun s => .next (raise .illegalCmd s)) s

/-! ### The interrupt context -/

/-- R121: entry into the interrupt context. Nothing of the foreground is saved or changed (R207). -/
def enterIsr (s : State) : State := { s with isrActive := true }

/-- R123: return from the interrupt context. Nothing is restored (R208). -/
def exitIsr (s : State) : State := { s with isrActive := false }

/-! ### The device, through the Register Interface -/

/-- R56 `DevRead(DATA)`: the oldest received byte, which the read consumes; `none` where it is not defined,
when no byte is pending. -/
def devReadData (s : State) : Option (Byte × State) :=
  match s.rxq with
  | [] => none
  | b :: rest => some (b, { s with rxq := rest })

/-- R57 `DevWrite(DATA, b)`: the byte is queued to hardware; `busyAfter` is the draw for `dev.tx_busy`. -/
def devWriteData (b : Byte) (busyAfter : Bool) (s : State) : State :=
  { s with txLog := s.txLog ++ [b], txBusy := busyAfter }

/-- R13, R32 `DevWrite(IE, P_IE_VALUE)`: the device's receive interrupt is enabled. -/
def devWriteIe (s : State) : State := { s with rxIrqEn := true }

/-- R31: the device environment appends a received byte. -/
def envReceive (b : Byte) (s : State) : State := { s with rxq := s.rxq ++ [b] }

/-- R33: the device environment sets or clears the transmit-busy flag. -/
def envSetBusy (busy : Bool) (s : State) : State := { s with txBusy := busy }

/-- R70: the caller drives `cmd_valid` and `cmd_word`. -/
def callerDrive (cmd : Option CmdWord) (s : State) : State := { s with port := cmd }

/-! ### The one-time marks of INIT -/

/-- R27, R190: the producer is registered with the platform's interrupt dispatch. -/
def armProducer (s : State) : State := { s with irqArmed := true }

/-- R26, R190: `console-init` is done. -/
def markInitDone (s : State) : State := { s with initDone := true }

/-- R101 `rb_reset()`: both indices 0; the storage is unchanged. -/
def rbReset (s : State) : State := { s with rbHead := 0, rbTail := 0, rbValid := true }

/-! ### The schedule -/

/-- The move the coming step takes: the agenda's first, or the free value of this tick (log 2). -/
def State.nextMove (s : State) : Move :=
  match s.agenda with
  | m :: _ => m
  | [] => Config.freeMove s.clock

/-- The state once the coming step's move has been read: the agenda's rest, and one tick more. -/
def State.advance (s : State) : State :=
  { s with agenda := s.agenda.tail, clock := s.clock + 1 }

end Sys2Proof.Machine
end

