-- ==== Sys2Proof/Machine/Flags.lean ====
section
/-! DEFINITION. What the rules test: the ring predicates (R25), the two device flags and the interrupt line
(R31, R33, R41), and the decoder's continuation condition (R140). -/

namespace Sys2Proof.Machine

/-- R25 `empty(S)`. -/
def State.ringEmpty (s : State) : Bool := decide (s.rbHead = s.rbTail)

/-- The index after `i` in the ring, `(i + 1) mod N`. -/
def State.nextIndex (s : State) (i : Nat) : Nat := (i + 1) % s.cfg.N

/-- R25 `full(S)`. -/
def State.ringFull (s : State) : Bool := decide (s.nextIndex s.rbHead = s.rbTail)

/-- R25 `count(S)`, the mathematical remainder of `head − tail` by `N`. -/
def State.ringCount (s : State) : Nat := (((s.rbHead : Int) - (s.rbTail : Int)) % (s.cfg.N : Int)).toNat

/-- R25 `contents(S)`, oldest first. -/
def State.contents (s : State) : List Byte :=
  (List.range s.ringCount).map fun k => Memory.read s.rbMem ((s.rbTail + k) % s.cfg.N)

/-- R13 `DevRead(TXBUSY)`: the sample of the transmit-busy flag. -/
def State.devReadTxBusy (s : State) : Bool := s.txBusy

/-- R13 `DevRead(RXPEND)`, R31 `rx_pending(S)`: a received byte is pending. -/
def State.devReadRxPend (s : State) : Bool := !s.rxq.isEmpty

/-- R41, R205: `irq_pending(S)`, the level of `irq_rx`. -/
def State.irqPending (s : State) : Bool := s.devReadRxPend && s.rxIrqEn && s.irqArmed

/-- R205: the interrupt may be taken. -/
def State.irqTakeable (s : State) : Bool := s.irqPending && !s.isrActive && decide (s.fault = none)

/-- R140 `continue(acc, S)`. -/
def State.continues (s : State) (acc : List Byte) : Bool :=
  !s.ringEmpty && (acc.isEmpty || strictPrefixAny s.cfg.table acc) && decide (exactCode s.cfg.table acc = 0)

end Sys2Proof.Machine
end

