-- ==== Sys2Proof/Machine/Ring.lean ====
section
/-! DEFINITION. The ring primitives `try-push`, `is-empty` and `pop` (R102 to R104), and the four
test-harness commands over the ring (R106 to R109). -/

namespace Sys2Proof.Machine

/-- R102 `rb_try_push(b)`: the state after, and whether the byte was stored. The slot is written before the
index (R59); a full ring changes nothing. -/
def rbTryPush (b : Byte) (s : State) : Result (State × Bool) :=
  if s.ringFull then .next (s, false)
  else Result.andThen (memWrite s.rbHead b s) fun t => .next ({ t with rbHead := s.nextIndex s.rbHead }, true)

/-- R103 `rb_is_empty()`. -/
def rbIsEmpty (s : State) : Bool := s.ringEmpty

/-- R104 `rb_pop()`: the state after and the byte; no byte when it raised `F_POP_EMPTY`. -/
def rbPop (s : State) : Result (State × Option Byte) :=
  if s.ringEmpty then .next (raise .popEmpty s, none)
  else Result.andThen (memRead s.rbTail s) fun b => .next ({ s with rbTail := s.nextIndex s.rbTail }, some b)

/-- R106 T_RB_RESET. -/
def execTRbReset (s : State) : Result State :=
  accept (fun s => if s.irqArmed then .next (raise .spsc s) else .next (respond 0 (rbReset s))) s

/-- R107 T_RB_TRY_PUSH; the order of its faults is R204's. -/
def execTRbTryPush (b : Byte) (s : State) : Result State :=
  accept
    (fun s =>
      if s.irqArmed then .next (raise .spsc s)
      else if !s.rbValid then .next (raise .notInit s)
      else Result.andThen (rbTryPush b s) fun r => .next (respond (boolResponse r.2) r.1))
    s

/-- R108 T_RB_IS_EMPTY. -/
def execTRbIsEmpty (s : State) : Result State :=
  accept
    (fun s => if !s.rbValid then .next (raise .notInit s) else .next (respond (boolResponse (rbIsEmpty s)) s))
    s

/-- R109 T_RB_POP; on an empty ring `rb_pop` has raised the fault and there is no response. -/
def execTRbPop (s : State) : Result State :=
  accept
    (fun s =>
      if !s.rbValid then .next (raise .notInit s)
      else
        Result.andThen (rbPop s) fun r =>
          match r.2 with
          | some b => .next (respond (zext32 b) r.1)
          | none => .next r.1)
    s

end Sys2Proof.Machine
end

