-- ==== Sys2Proof/Machine/Decoder.lean ====
section
/-! DEFINITION. READ_KEY, the escape-sequence decoder: accept (R144), iterate (R145) and finish (R146). -/

namespace Sys2Proof.Machine

/-- R144 READ_KEY: a new, empty decode session. -/
def execReadKey (s : State) : Result State :=
  accept (fun s => if !s.initDone then .next (raise .notInit s) else .next { s with fg := .readKey [] }) s

/-- R145: pop one byte and append it to the session. The ring is not empty here, so `rb_pop` answers a
byte. -/
def readKeyIterate (acc : List Byte) (s : State) : Result State :=
  Result.andThen (rbPop s) fun r =>
    match r.2 with
    | some b => .next { r.1 with fg := .readKey (acc ++ [b]) }
    | none => .next r.1

/-- R146 steps 3 to 6: the response for a finished session. -/
def sessionResponse (table : List SequenceEntry) (acc : List Byte) : BitVec 32 :=
  if exactCode table acc ≠ 0 then exactCode table acc
  else
    match acc.getLast? with
    | some b => zext32 b
    | none => 0

/-- R146: the session ends and the command responds. -/
def readKeyFinish (acc : List Byte) (s : State) : State := respond (sessionResponse s.cfg.table acc) s

/-- R145, R146: the one step of READ_KEY that is enabled. -/
def readKeyStep (acc : List Byte) (s : State) : Result State :=
  if s.continues acc then readKeyIterate acc s else .next (readKeyFinish acc s)

end Sys2Proof.Machine
end

