-- ==== Sys2Proof/Machine/Init.lean ====
section
/-! DEFINITION. INIT (R190). -/

namespace Sys2Proof.Machine

/-- R190 INIT, `console-init`: one atomic step, its actions in the source's order. -/
def execInit (s : State) : Result State :=
  accept
    (fun s =>
      if s.initDone then .next (raise .reinit s)
      else .next (respond 0 (markInitDone (armProducer (devWriteIe (rbReset s))))))
    s

end Sys2Proof.Machine
end

