-- ==== Sys2Proof/Machine/Producer.lean ====
section
/-! DEFINITION. The interrupt producer: entry (R121), drain step (R122), exit (R123). -/

namespace Sys2Proof.Machine

/-- R121 IRQ_RX, interrupt entry; where the interrupt cannot be taken the agent has no step and holds
(log 8). -/
def execIrqRx (s : State) : Result State :=
  if s.irqTakeable then .next (enterIsr s) else .next s

/-- R122, R123: the step of the running producer. It drains the pending byte (`try-push`'s result is
discarded, so a full ring loses it), or exits when none is pending. -/
def drainOrExit (s : State) : Result State :=
  match devReadData s with
  | some (b, t) => Result.andThen (rbTryPush b t) fun r => .next r.1
  | none => .next (exitIsr s)

end Sys2Proof.Machine
end

