-- ==== Sys2Proof/Machine/Transmit.lean ====
section
/-! DEFINITION. The encoder and the synchronous transmitter: WRITE_KEY (R172), T_TX_BYTE (R176), the
per-byte step (R174) and the completion step (R173). -/

namespace Sys2Proof.Machine

/-- R172 WRITE_KEY: the code's bytes are to be transmitted, and the response will be 0. -/
def execWriteKey (code : KeyCode) (s : State) : Result State :=
  accept
    (fun s =>
      if !s.initDone then .next (raise .notInit s)
      else .next { s with fg := .tx (encodeKey s.cfg.table code) 0 })
    s

/-- R176 T_TX_BYTE: one raw byte, no table lookup and no need of INIT. -/
def execTTxByte (b : Byte) (s : State) : Result State :=
  accept (fun s => .next { s with fg := .tx [b] 0 }) s

/-- R174: one poll of the transmit-busy flag; when it is clear the byte is written in the same step, and
`busyAfter` is the device's draw. -/
def transmitByte (b : Byte) (rest : List Byte) (v : KeyCode) (busyAfter : Bool) (s : State) : State :=
  if s.devReadTxBusy then s else { devWriteData b busyAfter s with fg := .tx rest v }

/-- R173, R174: the step of the transmitter. -/
def transmitStep (q : List Byte) (v : KeyCode) (busyAfter : Bool) (s : State) : State :=
  match q with
  | [] => respond v s
  | b :: rest => transmitByte b rest v busyAfter s

end Sys2Proof.Machine
end

