-- ==== Sys2Proof/Machine/Dispatch.lean ====
section
/-! DEFINITION. One meaning for each constructor of Instr. -/

namespace Sys2Proof.Machine

/-- What one operation does: the accept step of a command, or interrupt entry. -/
def exec (i : Instr) (s : State) : Host.Outcome State Fault Refusal :=
  match i with
  | .init => Sys2Proof.Machine.execInit s
  | .readKey => Sys2Proof.Machine.execReadKey s
  | .writeKey code => Sys2Proof.Machine.execWriteKey code s
  | .tRbReset => Sys2Proof.Machine.execTRbReset s
  | .tRbTryPush byte => Sys2Proof.Machine.execTRbTryPush byte s
  | .tRbIsEmpty => Sys2Proof.Machine.execTRbIsEmpty s
  | .tRbPop => Sys2Proof.Machine.execTRbPop s
  | .tTxByte byte => Sys2Proof.Machine.execTTxByte byte s
  | .irqRx => Sys2Proof.Machine.execIrqRx s

end Sys2Proof.Machine
end

