-- ==== Sys2Proof/Machine/Agents.lean ====
section
/-! DEFINITION. The agents of R14 over the operations: what one move of a run does. -/

namespace Sys2Proof.Machine

/-- R74, R77: the word on the port is accepted; a legal word runs its operation, a reserved one raises. -/
def acceptWord (w : CmdWord) (s : State) : Result State :=
  match decode (.command w) with
  | some i => exec i (takeCommand s)
  | none => acceptReserved (takeCommand s)

/-- R14 agent 1, in a block without a fault. While the interrupt context runs, the foreground takes no step
(R28). Where nothing is enabled the agent holds. -/
def foregroundEnabledStep (busyAfter : Bool) (s : State) : Result State :=
  if s.isrActive then .next s
  else
    match s.fg with
    | .idle =>
      match s.port with
      | some w => acceptWord w s
      | none => .next s
    | .readKey acc => readKeyStep acc s
    | .tx q v => .next (transmitStep q v busyAfter s)
    | .halted => .next s

/-- R14 agent 2, in a block without a fault: the running producer's step, or the event IRQ_RX. -/
def interruptEnabledStep (s : State) : Result State :=
  if s.isrActive then drainOrExit s
  else
    match decode .interrupt with
    | some i => exec i s
    | none => .next s

/-- R200: a block that has faulted takes no step any more, and the run is over. -/
def blockStep (body : State → Result State) (s : State) : Result State :=
  match s.fault with
  | some c => .fault (.halted c)
  | none => body s

/-- What one move does. The environment and the caller may move in any state (R31, R33, R200). -/
def runMove (m : Move) (s : State) : Result State :=
  match m with
  | .foreground busyAfter => blockStep (foregroundEnabledStep busyAfter) s
  | .interrupt => blockStep interruptEnabledStep s
  | .envRx b => .next (envReceive b s)
  | .envTxBusy busy => .next (envSetBusy busy s)
  | .caller cmd => .next (callerDrive cmd s)

/-- R203: a configuration that is not admitted has no runs, and is refused by the name of the first check
that fails. -/
def admittedStep (s : State) : Result State :=
  match s.cfg.firstFailure with
  | some k => .refused (.badConfig k)
  | none => runMove s.nextMove s.advance

/-- `s` with the operation of a table word placed so that the very next step runs it (log 12): a command
word is presented on the port and the foreground moves next; the event row, which has no bits, has the
interrupt agent move next. -/
def placeTableWord (s : State) (nbits w : Nat) : State :=
  if nbits = 0 then { s with agenda := .interrupt :: s.agenda }
  else { s with port := some (BitVec.ofNat 36 w), agenda := .foreground false :: s.agenda }

end Sys2Proof.Machine
end

