-- ==== Sys2Proof/Machine/Step.lean ====
section
/-! DEFINITION. One step of the machine, and the host's way to place an operation for it. -/

namespace Sys2Proof.Machine

/-- One atomic step of a run (R14). -/
def step (s : State) : Host.Outcome State Fault Refusal := admittedStep s

/-- `s` with a table word placed where `step` takes its next operation. -/
def State.withFetchWord (s : State) (nbits w : Nat) : State := placeTableWord s nbits w

end Sys2Proof.Machine
end

