-- ==== Sys2Proof/Machine/Observation.lean ====
section
/-! DEFINITION. What a run shows (R242): the responses, one per accepted command, and the transmit log; with the
words a run accepts, and the bytes and the responses that an accepted word can account for. -/

namespace Sys2Proof.Machine

/-- R77: the word that a move accepts from the port, legal or reserved. -/
def acceptedWord (m : Move) (s : State) : Option CmdWord :=
  match m with
  | .foreground _ => if s.cmdReady then s.port else none
  | .interrupt => none
  | .envRx _ => none
  | .envTxBusy _ => none
  | .caller _ => none

/-- R76, R242: the response that a move from `s` to `t` completes a command with: the command was in progress
in `s` or is accepted by this move, and in `t` it has responded (log 22). -/
def completedResponse (m : Move) (s t : State) : Option (BitVec 32) :=
  if (decide (s.fg ≠ .idle) || (acceptedWord m s).isSome) && decide (t.fg = .idle) && t.rspValid then some t.rspData
  else none

/-- R242: what a run shows an observer. -/
structure Shown where
  /-- the `rsp_data` values, oldest first. -/
  responses : List (BitVec 32)
  /-- `dev.tx_log` at the end of the run. -/
  txLog : List Byte
  deriving DecidableEq, Repr

/-- A finite run as its observer and its caller have it: the words accepted, the responses, the last state. -/
structure RunRecord where
  accepted  : List CmdWord
  responses : List (BitVec 32)
  final     : State
  deriving DecidableEq, Repr

/-- R242: what the run of a record shows. -/
def RunRecord.shown (r : RunRecord) : Shown := { responses := r.responses, txLog := r.final.txLog }

/-- The record of a run once a move from `s` to `t` is put before it. -/
def RunRecord.before (m : Move) (s t : State) (r : RunRecord) : RunRecord where
  accepted := (acceptedWord m s).toList ++ r.accepted
  responses := (completedResponse m s t).toList ++ r.responses
  final := r.final

/-- R14, R242: the record of a finite run, the moves taken one after the other from `s`. -/
def runRecord : List Move → State → Result RunRecord
  | [], s => .next { accepted := [], responses := [], final := s }
  | m :: ms, s =>
    Result.andThen (runMove m s) fun t => Result.andThen (runRecord ms t) fun r => .next (r.before m s t)

/-- R170, R172, R176: the bytes that an accepted word puts on the transmit log once it completes. -/
def wordBytes (table : List SequenceEntry) (w : CmdWord) : List Byte :=
  match decode (.command w) with
  | some (.writeKey code) => encodeKey table code
  | some (.tTxByte b) => [b]
  | some .init => []
  | some .readKey => []
  | some .tRbReset => []
  | some (.tRbTryPush _) => []
  | some .tRbIsEmpty => []
  | some .tRbPop => []
  | some .irqRx => []
  | none => []

/-- R76, R78: a value that an accepted word may be answered with. A reserved word has no response. -/
def mayAnswer (table : List SequenceEntry) (w : CmdWord) (k : BitVec 32) : Prop :=
  match decode (.command w) with
  | some .init => k = 0
  | some .readKey => (∃ b : Byte, k = zext32 b) ∨ ∃ e ∈ table, k = e.code
  | some (.writeKey _) => k = 0
  | some .tRbReset => k = 0
  | some (.tRbTryPush _) => k = 0 ∨ k = 1
  | some .tRbIsEmpty => k = 0 ∨ k = 1
  | some .tRbPop => ∃ b : Byte, k = zext32 b
  | some (.tTxByte _) => k = 0
  | some .irqRx => False
  | none => False

end Sys2Proof.Machine
end

