-- ==== Sys2Proof/Safety.lean ====
section
/-! DEFINITION. What claims are stated in: power-on states (R230), the invariant, which agents have a step
enabled, how a run ends (R242), runs and the named environment premises (R236), what one step moves
through the ring (R59), and the decoder as a function of the ring's contents. -/

namespace Sys2Proof.Machine

/-- R230: the states the block may power on in. The elements the rule leaves unspecified are constrained
only by their types: the indices by `[0, N)`, the storage by having `N` slots, the rest not at all. -/
structure State.PowerOn (s : State) : Prop where
  memWf : Memory.wf s.rbMem
  memWithin : Memory.within s.rbMem s.cfg.N
  headInRange : s.rbHead < s.cfg.N
  tailInRange : s.rbTail < s.cfg.N
  rbValid : s.rbValid = false
  initDone : s.initDone = false
  irqArmed : s.irqArmed = false
  isrActive : s.isrActive = false
  fg : s.fg = .idle
  fault : s.fault = none
  rspValid : s.rspValid = false
  rxIrqEn : s.rxIrqEn = false
  txLog : s.txLog = []

/-- R140 (b) and (c), the part of the continuation condition that the table decides. -/
def sessionOpen (table : List SequenceEntry) (acc : List Byte) : Bool :=
  (acc.isEmpty || strictPrefixAny table acc) && decide (exactCode table acc = 0)

/-- What a foreground phase keeps: a session within `MAX_SEQ_LEN` (R147) whose every byte but the last was
taken while the session was open, only after INIT (R144); a transmit queue within its bound (R64), whose
response will be 0 (R172, R176). -/
def phaseKept (c : Config) (initDone : Bool) : Phase → Bool
  | .idle => true
  | .readKey acc =>
    initDone && decide (acc.length ≤ c.maxSeqLen) && (acc.isEmpty || sessionOpen c.table acc.dropLast)
  | .tx q v => decide (q.length ≤ c.maxSeqLen) && decide (v = 0)
  | .halted => true

/-- The invariant of every reachable state. -/
structure State.Inv (s : State) : Prop where
  /-- R80. -/
  admitted : s.cfg.Admitted
  memWf : Memory.wf s.rbMem
  /-- R21. -/
  memWithin : Memory.within s.rbMem s.cfg.N
  /-- R22, R100. -/
  headInRange : s.rbHead < s.cfg.N
  /-- R23, R100. -/
  tailInRange : s.rbTail < s.cfg.N
  /-- R64, R147. -/
  phase : phaseKept s.cfg s.initDone s.fg = true
  /-- R30. -/
  faultHalts : s.fault = none ↔ s.fg ≠ .halted
  /-- R190: INIT sets the three marks together. -/
  initArms : s.initDone = s.irqArmed
  armedEnables : s.irqArmed = s.rxIrqEn
  /-- R121: `rb_valid` is always true once the producer is armed. -/
  armedValid : s.irqArmed = true → s.rbValid = true
  /-- R27. -/
  isrArmed : s.isrActive = true → s.irqArmed = true
  /-- R208: no fault can occur inside the handler. -/
  isrNoFault : s.isrActive = true → s.fault = none
  /-- R35, R77. -/
  rspIdle : s.rspValid = true → s.fg = .idle

/-- The foreground agent has a step enabled (R77, R145, R146, R173, R174). -/
def State.fgEnabled (s : State) : Bool :=
  decide (s.fault = none) && !s.isrActive &&
    match s.fg with
    | .idle => s.port.isSome
    | .readKey _ => true
    | .tx [] _ => true
    | .tx (_ :: _) _ => !s.txBusy
    | .halted => false

/-- The interrupt agent has a step enabled (R121 to R123). -/
def State.irqEnabled (s : State) : Bool := decide (s.fault = none) && (s.isrActive || s.irqPending)

/-- R14: the two agents of the block. -/
inductive BlockAgent where
  | foreground
  | interrupt
  deriving DecidableEq, Repr

/-- The agent has a step enabled. -/
def State.agentEnabled (s : State) : BlockAgent → Bool
  | .foreground => s.fgEnabled
  | .interrupt => s.irqEnabled

/-- R174, R236: the foreground is polling a set transmit-busy flag. -/
def State.polling (s : State) : Bool :=
  s.txBusy &&
    match s.fg with
    | .tx (_ :: _) _ => true
    | _ => false

/-- R242: a quiescent state, where a run ends well. -/
structure State.Quiescent (s : State) : Prop where
  noFault : s.fault = none
  idle : s.fg = .idle
  noIsr : s.isrActive = false
  noIrq : s.irqPending = false

/-- R200, R242: a faulted state, a bad end of a run. -/
def State.Faulted (s : State) : Prop := s.fault ≠ none

/-! ### Runs and the named premises -/

/-- R14: the moves of a finite run, one after the other, from `s`. -/
def runMoves : List Move → State → Result State
  | [], s => .next s
  | m :: ms, s => Result.andThen (runMove m s) (runMoves ms)

/-- R242: the run of these moves from `s` ends well, and this is what it shows. -/
def EndsWell (moves : List Move) (s : State) (shown : Shown) : Prop :=
  ∃ r, runRecord moves s = .next r ∧ r.final.Quiescent ∧ r.shown = shown

/-- R200, R242: the run of these moves from `s` ends badly, in a faulted state. -/
def EndsBadly (moves : List Move) (s : State) : Prop := ∃ r, runRecord moves s = .next r ∧ r.final.Faulted

/-- Operations run back to back, with the response each leaves; for the one-step commands of R106 to R109. -/
def execAll : List Instr → State → Result (State × List (BitVec 32))
  | [], s => .next (s, [])
  | i :: is, s =>
    Result.andThen (exec i s) fun u => Result.andThen (execAll is u) fun r => .next (r.1, u.rspData :: r.2)

/-- R14: an infinite run of an admitted block, `m k` being the move taken in `τ k`. -/
def IsRun (m : Nat → Move) (τ : Nat → State) : Prop :=
  (τ 0).cfg.Admitted ∧ ∀ k, runMove (m k) (τ k) = .next (τ (k + 1))

/-- R242: in the run `τ`, the state at `k` is a hang: from there on the run reaches no end, neither a quiescent
state nor a faulted one, and an agent of the block never has a step enabled again (log 21). -/
def IsHang (τ : Nat → State) (k : Nat) : Prop :=
  (∀ j, k ≤ j → ¬(τ j).Quiescent ∧ ¬(τ j).Faulted) ∧ ∃ a, ∀ j, k ≤ j → (τ j).agentEnabled a = false

/-- `ENV_RX_FINITE` (R236): an interrupt that never ends has finitely many bytes appended to it. -/
def EnvRxFinite (m : Nat → Move) (τ : Nat → State) : Prop :=
  ∀ k, (∀ j, k ≤ j → (τ j).isrActive = true) → ∃ n, ∀ j, n ≤ j → ∀ b, m j ≠ .envRx b

/-- `ENV_IRQ_FAIR` (R236): a requested interrupt does not stay requested and untaken for good. -/
def EnvIrqFair (τ : Nat → State) : Prop :=
  ∀ k, ∃ j, k ≤ j ∧ ¬((τ j).irqPending = true ∧ (τ j).isrActive = false)

/-- `ENV_TX_PROGRESS` (R236): while the foreground polls, the flag is eventually clear. -/
def EnvTxProgress (τ : Nat → State) : Prop := ∀ k, (τ k).polling = true → ∃ j, k ≤ j ∧ (τ j).txBusy = false

/-- `SCHED_FAIR` (R236) for the foreground agent: enabled from some step on, it eventually moves. -/
def FgFair (m : Nat → Move) (τ : Nat → State) : Prop :=
  ∀ k, (∀ j, k ≤ j → (τ j).fgEnabled = true) → ∃ j, k ≤ j ∧ ∃ d, m j = .foreground d

/-- `SCHED_FAIR` (R236) for the interrupt agent. -/
def IrqFair (m : Nat → Move) (τ : Nat → State) : Prop :=
  ∀ k, (∀ j, k ≤ j → (τ j).irqEnabled = true) → ∃ j, k ≤ j ∧ m j = .interrupt

/-! ### What one step does to the ring's byte stream (R59) -/

/-- The operation that the coming step accepts from the port, if any. -/
def State.accepting (s : State) : Option Instr :=
  match s.nextMove with
  | .foreground _ => if s.cmdReady then s.port.bind fun w => decode (.command w) else none
  | .interrupt => none
  | .envRx _ => none
  | .envTxBusy _ => none
  | .caller _ => none

/-- The coming step resets the ring (R101). -/
def State.resetsRing (s : State) : Bool :=
  match s.accepting with
  | some .init => !s.initDone
  | some .tRbReset => !s.irqArmed
  | _ => false

/-- The bytes the coming step pushes with success (R102): T_RB_TRY_PUSH's, or the drained one. -/
def State.pushedBytes (s : State) : List Byte :=
  if s.ringFull then []
  else
    match s.nextMove, s.accepting with
    | .interrupt, _ => if s.isrActive && decide (s.fault = none) then s.rxq.take 1 else []
    | _, some (.tRbTryPush b) => if s.irqArmed || !s.rbValid then [] else [b]
    | _, _ => []

/-- The coming step pops the ring with success (R104): T_RB_POP's, or a READ_KEY iteration's. -/
def State.popsRing (s : State) : Bool :=
  !s.ringEmpty &&
    match s.nextMove, s.accepting, s.fg with
    | .foreground _, some .tRbPop, _ => s.rbValid
    | .foreground _, _, .readKey acc => s.continues acc && !s.isrActive && decide (s.fault = none)
    | _, _, _ => false

/-- The bytes the coming step pops. -/
def State.poppedBytes (s : State) : List Byte := if s.popsRing then [Memory.read s.rbMem s.rbTail] else []

/-- A finite run from `s`: `ByteFlow s pushed popped t` holds when steps lead from `s` to `t`, none of them
resets the ring, and the bytes pushed and popped on the way are these, in order. -/
inductive ByteFlow : State → List Byte → List Byte → State → Prop where
  | done (s : State) : ByteFlow s [] [] s
  | more {s u t : State} {pushed popped : List Byte} (hstep : step s = .next u) (hreset : s.resetsRing = false)
      (hrest : ByteFlow u pushed popped t) :
      ByteFlow s (s.pushedBytes ++ pushed) (s.poppedBytes ++ popped) t

/-! ### The decoder as a function of the bytes in the ring -/

/-- The source's loop, steps 2(a) to 2(c), over a list of bytes: the session and the bytes it leaves. -/
def decodeSession (table : List SequenceEntry) (acc : List Byte) : List Byte → List Byte × List Byte
  | [] => (acc, [])
  | b :: rest => if sessionOpen table acc then decodeSession table (acc ++ [b]) rest else (acc, b :: rest)

/-- R177, R241: no entry's sequence is a proper start of `q`. -/
def noShorterEntry (table : List SequenceEntry) (q : List Byte) : Bool :=
  table.all fun e => !(decide (e.seq.length < q.length) && decide (q.take e.seq.length = e.seq))

end Sys2Proof.Machine
end

