-- ==== Sys2Proof/Certificates/Slice0/Obligations.lean ====
section
/-! DEFINITION. The statements for the provers. Each says in words what it states; OBLIGATIONS.json lists the
rules. Operands and states are every one the hypotheses admit, configurations included: `s.cfg` is any. -/

open Sys2Proof Sys2Proof.Machine

/-! ### Power-on and the invariant -/

/-- The state after reset is one of R230's power-on states. -/
def Obligations.ResetIsAPowerOnState : Prop := State.reset.PowerOn

/-- Every power-on state of an admitted configuration meets the invariant, and so does the model's own
`State.reset` (its values where R230 gives none are logs 1, 4 and 5). -/
def Obligations.PowerOnMeetsTheInvariant : Prop :=
  (∀ s : State, s.cfg.Admitted → s.PowerOn → s.Inv) ∧ State.reset.Inv

/-- Every step, of whichever agent, keeps the invariant. -/
def Obligations.EveryStepKeepsTheInvariant : Prop := ∀ s t : State, s.Inv → step s = .next t → t.Inv

/-- From a state of the invariant a step answers a next state, unless the block has faulted and one of its
agents is to move; no step leaves the ring's index range and none is refused. -/
def Obligations.StepFromTheInvariantAnswers : Prop :=
  ∀ s : State, s.Inv →
    (∃ t, step s = .next t) ∨
      ∃ c, s.fault = some c ∧ step s = .fault (.halted c) ∧
        (s.nextMove = .interrupt ∨ ∃ d, s.nextMove = .foreground d)

/-- After power-on the foreground accepts a command, the interrupt cannot be taken, and INIT, T_RB_RESET and
T_TX_BYTE are the only commands whose start (what `exec` is, log 14) records no fault; R231 derives it from
R201 and R202. INIT and T_RB_RESET have then responded 0; T_TX_BYTE has its byte still to transmit. -/
def Obligations.CommandsThatStartWithoutFaultAtPowerOn : Prop :=
  ∀ s : State, s.PowerOn → s.fg = .idle ∧ s.cmdReady = true ∧ s.irqTakeable = false ∧
    (∀ i : Instr, i ≠ .irqRx →
      ((∃ t, exec i s = .next t ∧ t.fault = none) ↔ i = .init ∨ i = .tRbReset ∨ ∃ b, i = .tTxByte b)) ∧
    (∀ i : Instr, i = .init ∨ i = .tRbReset →
      ∃ t, exec i s = .next t ∧ t.fg = .idle ∧ t.rspValid = true ∧ t.rspData = 0) ∧
    ∀ b, ∃ t, exec (.tTxByte b) s = .next t ∧ t.fg = .tx [b] 0 ∧ t.rspValid = false

/-! ### Encoding -/

/-- Decoding an encoded operation gives it back, whatever its operand. -/
def Obligations.DecodeOfEncodeIsIdentity : Prop := ∀ i : Instr, decode (encode i) = some i

/-- A stimulus that decodes to an operation is that operation's encoding: no operation has two words. -/
def Obligations.EncodingIsTheOnlyWord : Prop := ∀ (x : Stimulus) (i : Instr), decode x = some i → encode i = x

/-- R74: the reserved words are those of a reserved `op` and those whose `arg` breaks its operand's
constraint, and accepting one raises `F_ILLEGAL_CMD`. The response is no longer valid then (R77, log 18), and
the word has left the port (log 3, the model's choice). -/
def Obligations.ReservedWordsRaiseIllegalCmd : Prop :=
  (∀ w : CmdWord, decode (.command w) = none ↔
    w.op ∈ [0x0#4, 0x4#4, 0x5#4, 0x6#4, 0x7#4, 0xD#4, 0xE#4, 0xF#4] ∨
      (w.op ∈ [0x1#4, 0x2#4, 0x8#4, 0xA#4, 0xB#4] ∧ w.arg ≠ 0) ∨
      (w.op ∈ [0x9#4, 0xC#4] ∧ w.arg.extractLsb' 8 24 ≠ 0)) ∧
  ∀ (s : State) (d : Bool) (w : CmdWord), s.cfg.Admitted → s.cmdReady = true → s.nextMove = .foreground d →
    s.port = some w → decode (.command w) = none →
    step s = .next { s.advance with port := none, rspValid := false, fault := some .illegalCmd, fg := .halted }

/-- A word is legal by the mask and pattern of some row of spec/opcode_table.json exactly when it decodes to
a command, and no word decodes to the event IRQ_RX. -/
def Obligations.DecodableWordsAreTheTableRows : Prop :=
  ∀ w : CmdWord, (w.legal = true ↔ ∃ i, decode (.command w) = some i) ∧ decode (.command w) ≠ some .irqRx

/-- R83's worked encodings. -/
def Obligations.WorkedEncodings : Prop :=
  decode (.command 0x100000000#36) = some .init ∧
  decode (.command 0x200000000#36) = some .readKey ∧
  decode (.command 0x3000000C8#36) = some (.writeKey 200#32) ∧
  decode (.command 0x300000101#36) = some (.writeKey 0x101#32) ∧
  decode (.command 0x900000041#36) = some (.tRbTryPush 0x41#8) ∧
  decode (.command 0xB00000000#36) = some .tRbPop ∧
  decode (.command 0x900000141#36) = none ∧
  decode (.command 0x200000001#36) = none ∧
  decode (.command 0x000000000#36) = none ∧
  decode (.command 0xFFFFFFFFF#36) = none

/-! ### A step -/

/-- A step in which the foreground accepts a word runs the decoded operation, once the word is off the port
and the move off the agenda; a step in which the interrupt agent moves outside the handler runs IRQ_RX. -/
def Obligations.StepRunsTheDecodedOperation : Prop :=
  (∀ (s : State) (d : Bool) (w : CmdWord) (i : Instr), s.cfg.Admitted → s.cmdReady = true →
    s.nextMove = .foreground d → s.port = some w → decode (.command w) = some i →
    step s = exec i { s.advance with port := none }) ∧
  ∀ s : State, s.cfg.Admitted → s.fault = none → s.isrActive = false → s.nextMove = .interrupt →
    step s = exec .irqRx s.advance

/-- A table word placed in a ready block is what the very next step runs (the placing is log 12's). -/
def Obligations.PlacedTableWordRunsNext : Prop :=
  ∀ (s : State) (nbits w : Nat) (i : Instr), s.cfg.Admitted → s.cmdReady = true →
    decodeTableWord nbits w = some i →
    step (s.withFetchWord nbits w) =
      exec i { s with port := (if nbits = 0 then s.port else none), clock := s.clock + 1 }

/-- R77: `cmd_ready` is `fg = Idle`, no interrupt context and no fault; a block that is not ready leaves the
command waiting on the port, which is no fault. That `exec` of a command then answers the state unchanged is
log 8's (DEDUCED), and that a ready block's step leaves the port empty is log 3's (the model's choice). -/
def Obligations.CommandWaitsUntilReady : Prop :=
  (∀ s : State, s.cmdReady = true ↔ s.fg = .idle ∧ s.isrActive = false ∧ s.fault = none) ∧
  (∀ (s : State) (i : Instr), i ≠ .irqRx → s.cmdReady = false → exec i s = .next s) ∧
  (∀ (s : State) (d : Bool) (w : CmdWord), s.Inv → s.nextMove = .foreground d → s.port = some w → s.fault = none →
    ∃ t, step s = .next t ∧ (t.port = none ↔ s.cmdReady = true) ∧
      (s.cmdReady = false → t.port = some w ∧ t.fault = none))

/-- R203: a configuration that is not admitted has no step, and is refused by the name of the first check
that fails, in the rule's order. -/
def Obligations.ConfigurationRefusedByFirstFailingCheck : Prop :=
  ∀ s : State,
    (∀ k : ConfigCheck, step s = .refused (.badConfig k) ↔
      s.cfg.passes k = false ∧
        ∃ before after : List ConfigCheck,
          [.nAtLeastOne, .maxSeqLenAtLeastOne, .wfNonempty, .wfMaxLen, .wfSeqUnique, .wfCodeUnique, .wfCodeNonzero,
            .wfCodeAboveByte] = before ++ k :: after ∧ ∀ j ∈ before, s.cfg.passes j = true) ∧
    ((∃ k, s.cfg.passes k = false) → ∃ k, step s = .refused (.badConfig k))

/-- R200: a faulted block is never ready again, the move of either of its agents stops the run, the fault
and `Halted` stay whatever else moves, and raising a fault is what each meaning's fault arm does. -/
def Obligations.FaultedBlockNeverStepsAgain : Prop :=
  ∀ (s : State) (c : FaultCode), s.cfg.Admitted → s.fault = some c →
    s.cmdReady = false ∧ s.irqTakeable = false ∧
    (∀ d, s.nextMove = .foreground d → step s = .fault (.halted c)) ∧
    (s.nextMove = .interrupt → step s = .fault (.halted c)) ∧
    ∀ t, step s = .next t → t.fault = some c ∧ t.fg = s.fg ∧ t.rspValid = s.rspValid ∧ t.rspData = s.rspData

/-- R13 `hold`: in a block without a fault, the move of an agent that has no step enabled changes nothing. -/
def Obligations.AgentWithoutEnabledStepHolds : Prop :=
  ∀ s : State, s.cfg.Admitted → s.fault = none →
    (∀ d, s.nextMove = .foreground d → s.fgEnabled = false → step s = .next s.advance) ∧
    (s.nextMove = .interrupt → s.irqEnabled = false → step s = .next s.advance)

/-- R31, R33: the device environment appends any byte and moves the busy flag in any state, a faulted one too
(R200). R70: the caller drives the port; that it may present, change or withdraw a word in any state is
log 3's, the model's choice. Each changes that one thing. -/
def Obligations.EnvironmentMoves : Prop :=
  ∀ s : State, s.cfg.Admitted →
    (∀ b, s.nextMove = .envRx b → step s = .next { s.advance with rxq := s.rxq ++ [b] }) ∧
    (∀ v, s.nextMove = .envTxBusy v → step s = .next { s.advance with txBusy := v }) ∧
    (∀ p, s.nextMove = .caller p → step s = .next { s.advance with port := p })

/-! ### What each operation does -/

/-- R190: INIT. -/
def Obligations.InitResult : Prop :=
  (∀ w : CmdWord, w.op = 0x1#4 → decode (.command w) = if w.arg = 0 then some .init else none) ∧
  ∀ s : State, s.cmdReady = true →
    (s.initDone = false → exec .init s = .next { s with
      rbHead := 0, rbTail := 0, rbValid := true, rxIrqEn := true, irqArmed := true, initDone := true,
      rspValid := true, rspData := 0, fg := .idle }) ∧
    (s.initDone = true →
      exec .init s = .next { s with rspValid := false, fault := some .reinit, fg := .halted })

/-- R106: T_RB_RESET. -/
def Obligations.RingResetCommandResult : Prop :=
  (∀ w : CmdWord, w.op = 0x8#4 → decode (.command w) = if w.arg = 0 then some .tRbReset else none) ∧
  ∀ s : State, s.cmdReady = true →
    (s.irqArmed = false → exec .tRbReset s = .next { s with
      rbHead := 0, rbTail := 0, rbValid := true, rspValid := true, rspData := 0, fg := .idle }) ∧
    (s.irqArmed = true →
      exec .tRbReset s = .next { s with rspValid := false, fault := some .spsc, fg := .halted })

/-- R107: T_RB_TRY_PUSH. -/
def Obligations.TryPushCommandResult : Prop :=
  (∀ w : CmdWord, w.op = 0x9#4 → decode (.command w) =
    if w.arg.extractLsb' 8 24 = 0 then some (.tRbTryPush (w.arg.extractLsb' 0 8)) else none) ∧
  ∀ (s : State) (b : Byte), s.cmdReady = true → s.rbHead < s.cfg.N →
    (s.irqArmed = true →
      exec (.tRbTryPush b) s = .next { s with rspValid := false, fault := some .spsc, fg := .halted }) ∧
    (s.irqArmed = false → s.rbValid = false →
      exec (.tRbTryPush b) s = .next { s with rspValid := false, fault := some .notInit, fg := .halted }) ∧
    (s.irqArmed = false → s.rbValid = true → (s.rbHead + 1) % s.cfg.N = s.rbTail →
      exec (.tRbTryPush b) s = .next { s with rspValid := true, rspData := 0, fg := .idle }) ∧
    (s.irqArmed = false → s.rbValid = true → (s.rbHead + 1) % s.cfg.N ≠ s.rbTail →
      exec (.tRbTryPush b) s = .next { s with
        rbMem := Memory.write s.rbMem s.rbHead b, rbHead := (s.rbHead + 1) % s.cfg.N,
        rspValid := true, rspData := 1, fg := .idle })

/-- R108: T_RB_IS_EMPTY. -/
def Obligations.IsEmptyCommandResult : Prop :=
  (∀ w : CmdWord, w.op = 0xA#4 → decode (.command w) = if w.arg = 0 then some .tRbIsEmpty else none) ∧
  ∀ s : State, s.cmdReady = true →
    (s.rbValid = true → exec .tRbIsEmpty s = .next { s with
      rspValid := true, rspData := (if s.rbHead = s.rbTail then 1 else 0), fg := .idle }) ∧
    (s.rbValid = false →
      exec .tRbIsEmpty s = .next { s with rspValid := false, fault := some .notInit, fg := .halted })

/-- R109: T_RB_POP. -/
def Obligations.PopCommandResult : Prop :=
  (∀ w : CmdWord, w.op = 0xB#4 → decode (.command w) = if w.arg = 0 then some .tRbPop else none) ∧
  ∀ s : State, s.cmdReady = true → s.rbTail < s.cfg.N →
    (s.rbValid = false →
      exec .tRbPop s = .next { s with rspValid := false, fault := some .notInit, fg := .halted }) ∧
    (s.rbValid = true → s.rbHead = s.rbTail →
      exec .tRbPop s = .next { s with rspValid := false, fault := some .popEmpty, fg := .halted }) ∧
    (s.rbValid = true → s.rbHead ≠ s.rbTail →
      exec .tRbPop s = .next { s with
        rbTail := (s.rbTail + 1) % s.cfg.N, rspValid := true,
        rspData := (Memory.read s.rbMem s.rbTail).setWidth 32, fg := .idle })

/-- An index outside `[0, N)` names no ring slot (R13): a push that would write there and a pop that would
read there stop by name, with nothing written. The stop is the model's own (log 9). -/
def Obligations.IndexOutsideTheRingStops : Prop :=
  ∀ s : State, s.cmdReady = true → s.rbValid = true →
    (∀ b, s.irqArmed = false → s.cfg.N ≤ s.rbHead → (s.rbHead + 1) % s.cfg.N ≠ s.rbTail →
      exec (.tRbTryPush b) s = .fault (.ringIndex s.rbHead)) ∧
    (s.cfg.N ≤ s.rbTail → s.rbHead ≠ s.rbTail → exec .tRbPop s = .fault (.ringIndex s.rbTail))

/-- R144: accepting READ_KEY. -/
def Obligations.ReadKeyAccepted : Prop :=
  (∀ w : CmdWord, w.op = 0x2#4 → decode (.command w) = if w.arg = 0 then some .readKey else none) ∧
  ∀ s : State, s.cmdReady = true →
    (s.initDone = true → exec .readKey s = .next { s with rspValid := false, fg := .readKey [] }) ∧
    (s.initDone = false →
      exec .readKey s = .next { s with rspValid := false, fault := some .notInit, fg := .halted })

/-- R172: accepting WRITE_KEY. -/
def Obligations.WriteKeyAccepted : Prop :=
  (∀ w : CmdWord, w.op = 0x3#4 → decode (.command w) = some (.writeKey w.arg)) ∧
  ∀ (s : State) (code : KeyCode), s.cmdReady = true →
    (s.initDone = true → exec (.writeKey code) s = .next { s with
      rspValid := false, fg := .tx (encodeKey s.cfg.table code) 0 }) ∧
    (s.initDone = false →
      exec (.writeKey code) s = .next { s with rspValid := false, fault := some .notInit, fg := .halted })

/-- R176: accepting T_TX_BYTE, before or after INIT. -/
def Obligations.TxByteAccepted : Prop :=
  (∀ w : CmdWord, w.op = 0xC#4 → decode (.command w) =
    if w.arg.extractLsb' 8 24 = 0 then some (.tTxByte (w.arg.extractLsb' 0 8)) else none) ∧
  ∀ (s : State) (b : Byte), s.cmdReady = true →
    exec (.tTxByte b) s = .next { s with rspValid := false, fg := .tx [b] 0 }

/-- R121: IRQ_RX enters the interrupt context when the interrupt can be taken, in whatever phase the
foreground is; from the invariant the ring is then valid. Where it cannot be taken it changes nothing, which is
log 8's reading (DEDUCED). -/
def Obligations.InterruptEntryResult : Prop :=
  ∀ s : State,
    (s.rxq ≠ [] → s.rxIrqEn = true → s.irqArmed = true → s.isrActive = false → s.fault = none →
      exec .irqRx s = .next { s with isrActive := true } ∧ (s.Inv → s.rbValid = true)) ∧
    (¬(s.rxq ≠ [] ∧ s.rxIrqEn = true ∧ s.irqArmed = true ∧ s.isrActive = false ∧ s.fault = none) →
      exec .irqRx s = .next s)

/-- R122, R123: the running producer takes the oldest pending byte and stores it, or loses it when the ring
is full; with none pending it exits. Nothing else changes. -/
def Obligations.ProducerStepResult : Prop :=
  ∀ s : State, s.cfg.Admitted → s.rbHead < s.cfg.N → s.fault = none → s.isrActive = true →
    s.nextMove = .interrupt →
    (∀ b rest, s.rxq = b :: rest → (s.rbHead + 1) % s.cfg.N = s.rbTail →
      step s = .next { s.advance with rxq := rest }) ∧
    (∀ b rest, s.rxq = b :: rest → (s.rbHead + 1) % s.cfg.N ≠ s.rbTail → step s = .next { s.advance with
      rxq := rest, rbMem := Memory.write s.rbMem s.rbHead b, rbHead := (s.rbHead + 1) % s.cfg.N }) ∧
    (s.rxq = [] → step s = .next { s.advance with isrActive := false })

/-- R145, R146: while the condition of R140 holds, a READ_KEY step pops one byte into the session; otherwise
it responds with the session's code, or its last byte, or 0. -/
def Obligations.ReadKeyStepResult : Prop :=
  ∀ (s : State) (acc : List Byte) (d : Bool), s.cfg.Admitted → s.rbTail < s.cfg.N → s.fault = none →
    s.isrActive = false → s.nextMove = .foreground d → s.fg = .readKey acc →
    (s.continues acc = true →
      step s = .next { s.advance with
        rbTail := (s.rbTail + 1) % s.cfg.N, fg := .readKey (acc ++ [Memory.read s.rbMem s.rbTail]) }) ∧
    (s.continues acc = false →
      ∃ k, step s = .next { s.advance with rspValid := true, rspData := k, fg := .idle } ∧
        (exactCode s.cfg.table acc ≠ 0 → k = exactCode s.cfg.table acc) ∧
        (exactCode s.cfg.table acc = 0 →
          (∀ front b, acc = front ++ [b] → k = b.setWidth 32) ∧ (acc = [] → k = 0)))

/-- R173, R174, R57: a transmit step polls the busy flag; it holds while the flag is set, and writes the byte
in the step that finds it clear, the device drawing the flag anew (the draw is the move's argument: log 11, the
model's choice); with no byte left it responds. -/
def Obligations.TransmitStepResult : Prop :=
  ∀ (s : State) (v : KeyCode) (d : Bool), s.cfg.Admitted → s.fault = none → s.isrActive = false →
    s.nextMove = .foreground d →
    (∀ b rest, s.fg = .tx (b :: rest) v → s.txBusy = true → step s = .next s.advance) ∧
    (∀ b rest, s.fg = .tx (b :: rest) v → s.txBusy = false →
      step s = .next { s.advance with txLog := s.txLog ++ [b], txBusy := d, fg := .tx rest v }) ∧
    (s.fg = .tx [] v → step s = .next { s.advance with rspValid := true, rspData := v, fg := .idle })

/-! ### Frames over the operations -/

/-- What every operation leaves unchanged. The device's received bytes, busy flag and transmit log, and the
model's own fields, by all; the device's interrupt enable and the two INIT marks by all but INIT;
`isr_active` by all but IRQ_RX; `rb_valid` and the indices by all but the operations over them named here;
every ring slot by all, but for T_RB_TRY_PUSH at the head. -/
def Obligations.OperationFrame : Prop :=
  ∀ (i : Instr) (s t : State), Memory.wf s.rbMem → exec i s = .next t →
    (t.rxq = s.rxq ∧ t.txBusy = s.txBusy ∧ t.txLog = s.txLog ∧ t.cfg = s.cfg ∧ t.port = s.port ∧
      t.agenda = s.agenda ∧ t.clock = s.clock) ∧
    (i ≠ .init → t.rxIrqEn = s.rxIrqEn ∧ t.irqArmed = s.irqArmed ∧ t.initDone = s.initDone) ∧
    (i ≠ .irqRx → t.isrActive = s.isrActive) ∧
    (i = .irqRx → t.fg = s.fg ∧ t.fault = s.fault ∧ t.rspValid = s.rspValid ∧ t.rspData = s.rspData) ∧
    (i ≠ .init → i ≠ .tRbReset → t.rbValid = s.rbValid) ∧
    (i ≠ .init → i ≠ .tRbReset → (∀ b, i ≠ .tRbTryPush b) → t.rbHead = s.rbHead) ∧
    (i ≠ .init → i ≠ .tRbReset → i ≠ .tRbPop → t.rbTail = s.rbTail) ∧
    (∀ a, (∀ b, i = .tRbTryPush b → a ≠ s.rbHead) → Memory.read t.rbMem a = Memory.read s.rbMem a)

/-- R201, R204: a ready block answers a next state for every operation, and the fault it records is exactly
the one these causes give, first cause first. -/
def Obligations.FaultOfEachOperation : Prop :=
  ∀ (i : Instr) (s : State), s.cmdReady = true → s.rbHead < s.cfg.N → s.rbTail < s.cfg.N →
    ∃ t, exec i s = .next t ∧
      t.fault =
        match i with
        | .init => if s.initDone then some .reinit else none
        | .readKey => if s.initDone then none else some .notInit
        | .writeKey _ => if s.initDone then none else some .notInit
        | .tRbReset => if s.irqArmed then some .spsc else none
        | .tRbTryPush _ => if s.irqArmed then some .spsc else if s.rbValid then none else some .notInit
        | .tRbIsEmpty => if s.rbValid then none else some .notInit
        | .tRbPop =>
          if s.rbValid then if s.rbHead = s.rbTail then some .popEmpty else none else some .notInit
        | .tTxByte _ => none
        | .irqRx => none

/-! ### The ring -/

/-- R25: the ring holds `count` bytes, at most `N − 1`; it is empty when it holds none and full when it holds
`N − 1`; with `N = 1` it is both. -/
def Obligations.RingCountLaws : Prop :=
  ∀ s : State, s.rbHead < s.cfg.N → s.rbTail < s.cfg.N →
    s.contents.length = s.ringCount ∧ s.ringCount ≤ s.cfg.N - 1 ∧
    (s.rbHead = s.rbTail ↔ s.ringCount = 0) ∧
    ((s.rbHead + 1) % s.cfg.N = s.rbTail ↔ s.ringCount = s.cfg.N - 1) ∧
    (s.cfg.N = 1 → s.ringEmpty = true ∧ s.ringFull = true)

/-- R102, R104 through the caller port: a push appends its byte to the contents, writing only the head's
slot, and is refused exactly at `N − 1` bytes; a pop answers the oldest byte and leaves the rest. -/
def Obligations.PushAppendsAndPopTakesTheOldest : Prop :=
  ∀ s : State, s.Inv → s.cmdReady = true → s.rbValid = true →
    (∀ b, s.irqArmed = false → s.contents.length < s.cfg.N - 1 →
      ∃ t, exec (.tRbTryPush b) s = .next t ∧ t.rspValid = true ∧ t.rspData = 1 ∧ t.contents = s.contents ++ [b] ∧
        Memory.read t.rbMem s.rbHead = b ∧ ∀ a, a ≠ s.rbHead → Memory.read t.rbMem a = Memory.read s.rbMem a) ∧
    (∀ b, s.irqArmed = false → s.contents.length = s.cfg.N - 1 →
      ∃ t, exec (.tRbTryPush b) s = .next t ∧ t.rspValid = true ∧ t.rspData = 0 ∧ t.contents = s.contents ∧
        t.rbMem = s.rbMem) ∧
    (∀ b rest, s.contents = b :: rest →
      ∃ t, exec .tRbPop s = .next t ∧ t.rspValid = true ∧ t.rspData = b.setWidth 32 ∧ t.contents = rest ∧
        t.rbMem = s.rbMem ∧ t.rbHead = s.rbHead)

/-- R105, capacity and recovery, for `N` at least 2: from an empty ring `N − 1` pushes succeed and the next fails, leaving the
bytes pushed in order; from there a pop and a push succeed, and the pops that follow give the remaining
bytes and then the new one. -/
def Obligations.CapacityAndRecovery : Prop :=
  ∀ (s : State) (b : Byte) (bs : List Byte) (x y : Byte), s.Inv → s.cmdReady = true → s.irqArmed = false →
    s.rbValid = true → s.contents = [] → (b :: bs).length = s.cfg.N - 1 →
    ∃ t u,
      execAll ((b :: bs).map .tRbTryPush ++ [.tRbTryPush x]) s =
          .next (t, List.replicate (s.cfg.N - 1) 1 ++ [0]) ∧
        t.contents = b :: bs ∧
      execAll ([.tRbPop, .tRbTryPush y] ++ List.replicate (s.cfg.N - 1) .tRbPop) t =
          .next (u, b.setWidth 32 :: 1 :: (bs ++ [y]).map fun c => c.setWidth 32) ∧
        u.contents = []

/-- R59: over every interleaving of every agent, as long as the ring is not reset, what stood in the ring
and what was pushed is, in order, what was popped and what stands there now. -/
def Obligations.RingIsFifoOverEveryRun : Prop :=
  ∀ (s t : State) (pushed popped : List Byte), s.Inv → ByteFlow s pushed popped t →
    s.contents ++ pushed = popped ++ t.contents

/-- R42: which agent writes each element. -/
def Obligations.OnlyTheOwnerWritesEachElement : Prop :=
  ∀ s t : State, s.Inv → step s = .next t →
    (t.rbHead ≠ s.rbHead → s.nextMove = .interrupt ∨ (s.irqArmed = false ∧ ∃ d, s.nextMove = .foreground d)) ∧
    (t.rbTail ≠ s.rbTail → ∃ d, s.nextMove = .foreground d) ∧
    (t.rbMem ≠ s.rbMem → s.nextMove = .interrupt ∨ (s.irqArmed = false ∧ ∃ d, s.nextMove = .foreground d)) ∧
    (∀ a, a ≠ s.rbHead → Memory.read t.rbMem a = Memory.read s.rbMem a) ∧
    (t.rbValid ≠ s.rbValid ∨ t.initDone ≠ s.initDone ∨ t.irqArmed ≠ s.irqArmed ∨ t.rxIrqEn ≠ s.rxIrqEn ∨
      t.fg ≠ s.fg ∨ t.fault ≠ s.fault ∨ t.rspValid ≠ s.rspValid ∨ t.rspData ≠ s.rspData ∨ t.txLog ≠ s.txLog →
      ∃ d, s.nextMove = .foreground d) ∧
    (t.isrActive ≠ s.isrActive → s.nextMove = .interrupt) ∧
    (t.rxq ≠ s.rxq → s.nextMove = .interrupt ∨ ∃ b, s.nextMove = .envRx b) ∧
    (t.txBusy ≠ s.txBusy → (∃ v, s.nextMove = .envTxBusy v) ∨ ((∃ d, s.nextMove = .foreground d) ∧ t.txLog ≠ s.txLog))

/-- R191, R24: no step clears a mark of INIT, or `rb_valid`, and INIT is the only way to set `init_done`. -/
def Obligations.InitMarksAreNeverCleared : Prop :=
  ∀ s t : State, step s = .next t →
    (s.initDone = true → t.initDone = true) ∧ (s.irqArmed = true → t.irqArmed = true) ∧
    (s.rxIrqEn = true → t.rxIrqEn = true) ∧ (s.rbValid = true → t.rbValid = true) ∧
    (s.initDone = false → t.initDone = true → s.accepting = some .init)

/-! ### The producer -/

/-- R120: a move of the interrupt agent writes the ring's head and one slot, `isr_active` and the received
bytes, and nothing else; and it does not read the foreground phase, the response, the busy flag, the
transmit log or the port: put others in their place and the step does the same beside them. -/
def Obligations.ProducerTouchesOnlyItsOwn : Prop :=
  ∀ s t : State, Memory.wf s.rbMem → s.nextMove = .interrupt → step s = .next t →
    (t.rbTail = s.rbTail ∧ t.rbValid = s.rbValid ∧ t.initDone = s.initDone ∧ t.irqArmed = s.irqArmed ∧
      t.fg = s.fg ∧ t.fault = s.fault ∧ t.rspValid = s.rspValid ∧ t.rspData = s.rspData ∧ t.rxIrqEn = s.rxIrqEn ∧
      t.txBusy = s.txBusy ∧ t.txLog = s.txLog ∧ t.cfg = s.cfg ∧ t.port = s.port ∧
      ∀ a, a ≠ s.rbHead → Memory.read t.rbMem a = Memory.read s.rbMem a) ∧
    ∀ (fg : Phase) (rv : Bool) (rd : BitVec 32) (busy : Bool) (log : List Byte) (port : Option CmdWord),
      step { s with fg := fg, rspValid := rv, rspData := rd, txBusy := busy, txLog := log, port := port } =
        .next { t with fg := fg, rspValid := rv, rspData := rd, txBusy := busy, txLog := log, port := port }

/-- R125: an interrupt with `k` bytes pending, and none arriving meanwhile, takes `1 + k + 1` steps of the
interrupt agent. It stores as many of the bytes as the ring has room for, oldest first, and loses the
rest; the foreground is left as it was. -/
def Obligations.WholeInterrupt : Prop :=
  ∀ s : State, s.Inv → s.irqTakeable = true →
    ∃ t, runMoves (List.replicate (1 + s.rxq.length + 1) .interrupt) s = .next t ∧
      t.contents = s.contents ++ s.rxq.take (s.cfg.N - 1 - s.contents.length) ∧
      t = { s with rxq := [], rbMem := t.rbMem, rbHead := t.rbHead }

/-- R125 under its premises, as log 19 reads R236: in a run where an unending interrupt would be sent finitely
many bytes, and the interrupt agent moves when its step stays enabled, every interrupt ends. -/
def Obligations.EveryInterruptEnds : Prop :=
  ∀ (m : Nat → Move) (τ : Nat → State), IsRun m τ → EnvRxFinite m τ → IrqFair m τ →
    ∀ k, (τ k).fault = none → (τ k).isrActive = true → ∃ j, k ≤ j ∧ (τ j).isrActive = false

/-- R206 under its premise, as log 19 reads R236: a requested interrupt is taken. -/
def Obligations.RequestedInterruptIsTaken : Prop :=
  ∀ (m : Nat → Move) (τ : Nat → State), IsRun m τ → EnvIrqFair τ →
    ∀ k, (τ k).irqPending = true → ∃ j, k ≤ j ∧ (τ j).isrActive = true

/-! ### The table -/

/-- R142, R143: the exact-match lookup and the code lookup over an admitted table. -/
def Obligations.TableLookups : Prop :=
  ∀ c : Config, c.Admitted →
    (∀ q, exactCode c.table q ≠ 0 ↔ ∃ e ∈ c.table, e.seq = q) ∧
    (∀ e ∈ c.table, exactCode c.table e.seq = e.code ∧ codeLookup c.table e.code = some e.seq) ∧
    exactCode c.table [] = 0 ∧
    (∀ k, codeLookup c.table k = none ↔ ∀ e ∈ c.table, e.code ≠ k) ∧ codeLookup c.table 0 = none

/-- R170, R80: a table code is transmitted as its sequence, any other code as its low byte; between 1 and
`MAX_SEQ_LEN` bytes. -/
def Obligations.EncodedKeyBytes : Prop :=
  ∀ c : Config, c.Admitted →
    (∀ e ∈ c.table, encodeKey c.table e.code = e.seq) ∧
    (∀ k, (∀ e ∈ c.table, e.code ≠ k) → encodeKey c.table k = [k.extractLsb' 0 8]) ∧
    (∀ k, 1 ≤ (encodeKey c.table k).length ∧ (encodeKey c.table k).length ≤ c.maxSeqLen)

/-- 90_conflicts C3: on an admitted table the loop is the same with the non-strict test as with the strict
one. -/
def Obligations.StrictAndPlainTestsGiveTheSameLoop : Prop :=
  ∀ (s : State) (acc : List Byte), s.cfg.Admitted →
    (s.continues acc = true ↔
      s.ringEmpty = false ∧ (acc = [] ∨ ∃ e ∈ s.cfg.table, isPrefixOf acc e = true) ∧
        exactCode s.cfg.table acc = 0)

/-! ### READ_KEY -/

/-- R149: when READ_KEY finishes, it is for one of the rule's four reasons, with that row's response. -/
def Obligations.SessionOutcomes : Prop :=
  ∀ (s : State) (acc : List Byte) (d : Bool), s.Inv → s.fault = none → s.isrActive = false →
    s.nextMove = .foreground d → s.fg = .readKey acc → s.continues acc = false →
    ∃ k, step s = .next { s.advance with rspValid := true, rspData := k, fg := .idle } ∧
      ((acc = [] ∧ s.ringEmpty = true ∧ k = 0) ∨
        (∃ e ∈ s.cfg.table, acc = e.seq ∧ k = e.code) ∨
        ((∀ e ∈ s.cfg.table, acc ≠ e.seq) ∧ strictPrefixAny s.cfg.table acc = false ∧
          (∃ front b, acc = front ++ [b] ∧ k = b.setWidth 32 ∧
            (front = [] ∨ strictPrefixAny s.cfg.table front = true))) ∨
        ((∀ e ∈ s.cfg.table, acc ≠ e.seq) ∧ strictPrefixAny s.cfg.table acc = true ∧ s.ringEmpty = true ∧
          ∃ front b, acc = front ++ [b] ∧ k = b.setWidth 32))

/-- R147, R148: whatever agent moves, a session stays, or gains one byte within `MAX_SEQ_LEN`, or ends with
its response; a foreground move that finds no interrupt context never leaves it as it is. -/
def Obligations.SessionGrowsWithinItsBoundOrEnds : Prop :=
  ∀ (s t : State) (acc : List Byte), s.Inv → s.fg = .readKey acc → step s = .next t →
    acc.length ≤ s.cfg.maxSeqLen ∧
    (t.fg = .readKey acc ∨ (∃ b, t.fg = .readKey (acc ++ [b]) ∧ acc.length + 1 ≤ s.cfg.maxSeqLen) ∨
      (t.fg = .idle ∧ t.rspValid = true)) ∧
    (∀ d, s.nextMove = .foreground d → s.isrActive = false → t.fg ≠ .readKey acc)

/-- R144 to R148, a whole READ_KEY with no other agent moving: it is the source's loop over the ring's
contents, it takes one step to accept, one for each byte and one to finish, at most `MAX_SEQ_LEN` bytes,
and it changes the tail, the response and the port (emptied: log 3) alone. -/
def Obligations.WholeReadKey : Prop :=
  ∀ (s : State) (draws : List Bool), s.Inv → s.cmdReady = true → s.initDone = true →
    s.port = some 0x200000000#36 →
    draws.length = (decodeSession s.cfg.table [] s.contents).1.length + 2 →
    ∃ t, runMoves (draws.map .foreground) s = .next t ∧
      t.contents = (decodeSession s.cfg.table [] s.contents).2 ∧
      s.contents = (decodeSession s.cfg.table [] s.contents).1 ++ t.contents ∧
      (decodeSession s.cfg.table [] s.contents).1.length ≤ s.cfg.maxSeqLen ∧
      t = { s with
        rbTail := t.rbTail, port := none, rspValid := true,
        rspData := sessionResponse s.cfg.table (decodeSession s.cfg.table [] s.contents).1 }

/-- R150: a READ_KEY that finds the ring empty responds 0 and leaves the ring unchanged. -/
def Obligations.EmptyPollRespondsZero : Prop :=
  ∀ (s : State) (d e : Bool), s.Inv → s.cmdReady = true → s.initDone = true → s.port = some 0x200000000#36 →
    s.ringEmpty = true →
    runMoves [.foreground d, .foreground e] s =
      .next { s with port := none, rspValid := true, rspData := 0 }

/-- R151: the shortest match wins. Where one entry's sequence is a proper start of another's, no bytes make
a session equal the longer one; and bytes that begin with a sequence that no shorter entry starts decode
to that entry. -/
def Obligations.ShortestMatchWins : Prop :=
  ∀ c : Config, c.Admitted →
    (∀ e₁ ∈ c.table, ∀ e₂ ∈ c.table, e₁.seq.length < e₂.seq.length → e₂.seq.take e₁.seq.length = e₁.seq →
      ∀ bytes, (decodeSession c.table [] bytes).1 ≠ e₂.seq) ∧
    (∀ e ∈ c.table, noShorterEntry c.table e.seq = true → ∀ rest,
      decodeSession c.table [] (e.seq ++ rest) = (e.seq, rest) ∧ sessionResponse c.table e.seq = e.code)

/-- R153: when the ring empties in the middle of a sequence, READ_KEY answers the last byte, and all the
bytes taken are gone. -/
def Obligations.StalledSequenceAnswersItsLastByte : Prop :=
  ∀ (s : State) (front : List Byte) (b : Byte) (draws : List Bool), s.Inv → s.cmdReady = true →
    s.initDone = true → s.port = some 0x200000000#36 → s.contents = front ++ [b] →
    strictPrefixAny s.cfg.table (front ++ [b]) = true → noShorterEntry s.cfg.table (front ++ [b]) = true →
    exactCode s.cfg.table (front ++ [b]) = 0 → draws.length = front.length + 3 →
    ∃ t, runMoves (draws.map .foreground) s = .next t ∧ t.fg = .idle ∧ t.rspValid = true ∧
      t.rspData = b.setWidth 32 ∧ t.contents = []

/-- R154: a byte that starts no sequence is consumed alone and answered as itself. -/
def Obligations.LiteralFallbackForOneByte : Prop :=
  ∀ (s : State) (x : Byte) (rest : List Byte) (d₁ d₂ d₃ : Bool), s.Inv → s.cmdReady = true → s.initDone = true →
    s.port = some 0x200000000#36 → s.contents = x :: rest → (∀ e ∈ s.cfg.table, e.seq.head? ≠ some x) →
    ∃ t, runMoves [.foreground d₁, .foreground d₂, .foreground d₃] s = .next t ∧ t.fg = .idle ∧
      t.rspValid = true ∧ t.rspData = x.setWidth 32 ∧ t.contents = rest

/-! ### WRITE_KEY and the transmitter -/

/-- R172 to R174, a whole WRITE_KEY with the busy flag clear at every poll: it transmits the code's bytes in
order and responds 0, and changes the transmit log, the response and the port (emptied: log 3) alone. -/
def Obligations.WholeWriteKey : Prop :=
  ∀ (s : State) (code : KeyCode), s.Inv → s.cmdReady = true → s.initDone = true → s.txBusy = false →
    s.port = some (0x3#4 ++ code) →
    runMoves (List.replicate ((encodeKey s.cfg.table code).length + 2) (.foreground false)) s =
      .next { s with
        port := none, txLog := s.txLog ++ encodeKey s.cfg.table code, rspValid := true, rspData := 0 }

/-- R175: while the environment does not clear the busy flag, the foreground stays where it is with its
bytes unsent, however long the run and whatever else moves; the block goes on answering next states. -/
def Obligations.StuckTransmitterHangsTheForeground : Prop :=
  ∀ (s : State) (b : Byte) (rest : List Byte) (v : KeyCode) (moves : List Move), s.Inv →
    s.fg = .tx (b :: rest) v → s.txBusy = true → .envTxBusy false ∉ moves →
    ∃ t, runMoves moves s = .next t ∧ t.fg = .tx (b :: rest) v ∧ t.txBusy = true ∧ t.txLog = s.txLog

/-- R174, R243: the data register is written only in a step that finds the busy flag clear, one byte, the
first of the bytes still to transmit. -/
def Obligations.DataRegisterWrittenOnlyWhenClear : Prop :=
  ∀ s t : State, step s = .next t →
    t.txLog = s.txLog ∨
      (s.txBusy = false ∧ s.isrActive = false ∧ s.fault = none ∧
        ∃ b rest v, s.fg = .tx (b :: rest) v ∧ t.txLog = s.txLog ++ [b] ∧ t.fg = .tx rest v)

/-- R171: a foreground move in the transmit phase writes the transmit log, the phase and the response (and
the device its busy flag), nothing of the ring, the received bytes or `isr_active`, and reads nothing of
them but whether the interrupt context is active. -/
def Obligations.TransmitPathFrame : Prop :=
  ∀ (s t : State) (q : List Byte) (v : KeyCode) (d : Bool), s.nextMove = .foreground d → s.fg = .tx q v →
    step s = .next t →
    (t.rbMem = s.rbMem ∧ t.rbHead = s.rbHead ∧ t.rbTail = s.rbTail ∧ t.rbValid = s.rbValid ∧ t.rxq = s.rxq ∧
      t.isrActive = s.isrActive ∧ t.initDone = s.initDone ∧ t.irqArmed = s.irqArmed ∧ t.rxIrqEn = s.rxIrqEn ∧
      t.fault = s.fault ∧ t.cfg = s.cfg ∧ t.port = s.port) ∧
    ∀ (m : Memory) (h l : Nat) (rv : Bool) (rx : List Byte),
      step { s with rbMem := m, rbHead := h, rbTail := l, rbValid := rv, rxq := rx } =
        .next { t with rbMem := m, rbHead := h, rbTail := l, rbValid := rv, rxq := rx }

/-- R177, the encode round trip as one run: WRITE_KEY transmits an entry's sequence, the environment
delivers those bytes, the interrupt puts them in the empty ring, and READ_KEY answers the entry's code. -/
def Obligations.EncodeDecodeRoundTrip : Prop :=
  ∀ (s : State) (e : SequenceEntry), s.Inv → s.cmdReady = true → s.initDone = true → s.txBusy = false →
    s.rxq = [] → s.ringEmpty = true → e ∈ s.cfg.table → noShorterEntry s.cfg.table e.seq = true →
    e.seq.length ≤ s.cfg.N - 1 →
    ∃ t,
      runMoves
        (.caller (some (0x3#4 ++ e.code)) :: List.replicate (e.seq.length + 2) (.foreground false) ++
          e.seq.map .envRx ++ List.replicate (1 + e.seq.length + 1) .interrupt ++
          .caller (some 0x200000000#36) :: List.replicate (e.seq.length + 2) (.foreground false)) s = .next t ∧
      t.txLog = s.txLog ++ e.seq ∧ t.fg = .idle ∧ t.rspValid = true ∧ t.rspData = e.code ∧ t.contents = [] ∧
      t.rxq = []

/-! ### The end of a run -/

/-- R242: a state in which no agent of the block has a step enabled is quiescent, or faulted, or a transmit
poll of a set busy flag (blocked now, a hang only if it stays so). In a run from the invariant a state is a
hang (log 21) exactly when, at every point from there on, the handler is running, or a set busy flag is
polled, or an Idle foreground without a command has an interrupt requested; or else a command is in progress
and no interrupt runs or is requested, at every point. A handler that never ends is a hang, whatever the
foreground's phase and the port; so is a transmit whose busy flag stays set. While the foreground has no
step enabled its phase stays as it is. -/
def Obligations.BlockedStatesAndHangs : Prop :=
  (∀ s : State, s.Inv → s.fgEnabled = false → s.irqEnabled = false →
    s.Quiescent ∨ s.Faulted ∨ s.polling = true) ∧
  ∀ (m : Nat → Move) (τ : Nat → State) (k : Nat), IsRun m τ → (τ 0).Inv →
    (IsHang τ k ↔
      (∀ j, k ≤ j → (τ j).isrActive = true ∨ (τ j).polling = true ∨
        ((τ j).fg = .idle ∧ (τ j).port = none ∧ (τ j).irqPending = true)) ∨
      ∀ j, k ≤ j → (τ j).fault = none ∧ (τ j).fg ≠ .idle ∧ (τ j).isrActive = false ∧ (τ j).irqPending = false) ∧
    ((∀ j, k ≤ j → (τ j).isrActive = true) → IsHang τ k) ∧
    (∀ b rest v, (τ k).fg = .tx (b :: rest) v → (∀ j, k ≤ j → (τ j).txBusy = true) → IsHang τ k) ∧
    ((τ k).fault = none → (∀ j, k ≤ j → (τ j).fgEnabled = false) → ∀ j, k ≤ j → (τ j).fg = (τ k).fg)

/-- The moves of an agenda are what that many steps take: a run of steps is a run of moves. -/
def Obligations.StepsFollowTheAgenda : Prop :=
  ∀ (s t : State) (moves rest : List Move), s.cfg.Admitted → s.agenda = moves ++ rest →
    runMoves moves s = .next t →
    Host.Core.run Sys2Proof.core moves.length s =
      .next { t with agenda := rest, clock := s.clock + moves.length }

/-- R242, R76: what a run shows, over every interleaving. From an Idle state of the invariant a run has one
response for each accepted command, but for one that is in progress at the end or has faulted; and where it
ends well, the responses answer the accepted words in order, and the transmit log has gained exactly their
bytes, in order. -/
def Obligations.WhatARunShows : Prop :=
  ∀ (s : State) (moves : List Move) (r : RunRecord), s.Inv → s.fg = .idle → runRecord moves s = .next r →
    r.accepted.length = r.responses.length + (if r.final.fg = .idle then 0 else 1) ∧
    (r.final.Quiescent →
      EndsWell moves s
        { responses := r.responses, txLog := s.txLog ++ r.accepted.flatMap (wordBytes s.cfg.table) } ∧
      List.Forall₂ (mayAnswer s.cfg.table) r.accepted r.responses)
end

