-- ==== Sys2Proof/Laws/State.lean ====
section
/-! SUPPORT. One lemma per field per named update of the state. -/

namespace Sys2Proof.Machine

/-! `respond` -/

@[simp] theorem respond_rbMem (v : BitVec 32) (s : State) : (respond v s).rbMem = s.rbMem := rfl
@[simp] theorem respond_rbHead (v : BitVec 32) (s : State) : (respond v s).rbHead = s.rbHead := rfl
@[simp] theorem respond_rbTail (v : BitVec 32) (s : State) : (respond v s).rbTail = s.rbTail := rfl
@[simp] theorem respond_rbValid (v : BitVec 32) (s : State) : (respond v s).rbValid = s.rbValid := rfl
@[simp] theorem respond_initDone (v : BitVec 32) (s : State) : (respond v s).initDone = s.initDone := rfl
@[simp] theorem respond_irqArmed (v : BitVec 32) (s : State) : (respond v s).irqArmed = s.irqArmed := rfl
@[simp] theorem respond_isrActive (v : BitVec 32) (s : State) : (respond v s).isrActive = s.isrActive := rfl
@[simp] theorem respond_fg (v : BitVec 32) (s : State) : (respond v s).fg = .idle := rfl
@[simp] theorem respond_fault (v : BitVec 32) (s : State) : (respond v s).fault = s.fault := rfl
@[simp] theorem respond_rspValid (v : BitVec 32) (s : State) : (respond v s).rspValid = true := rfl
@[simp] theorem respond_rspData (v : BitVec 32) (s : State) : (respond v s).rspData = v := rfl
@[simp] theorem respond_rxq (v : BitVec 32) (s : State) : (respond v s).rxq = s.rxq := rfl
@[simp] theorem respond_rxIrqEn (v : BitVec 32) (s : State) : (respond v s).rxIrqEn = s.rxIrqEn := rfl
@[simp] theorem respond_txBusy (v : BitVec 32) (s : State) : (respond v s).txBusy = s.txBusy := rfl
@[simp] theorem respond_txLog (v : BitVec 32) (s : State) : (respond v s).txLog = s.txLog := rfl
@[simp] theorem respond_cfg (v : BitVec 32) (s : State) : (respond v s).cfg = s.cfg := rfl
@[simp] theorem respond_port (v : BitVec 32) (s : State) : (respond v s).port = s.port := rfl
@[simp] theorem respond_agenda (v : BitVec 32) (s : State) : (respond v s).agenda = s.agenda := rfl
@[simp] theorem respond_clock (v : BitVec 32) (s : State) : (respond v s).clock = s.clock := rfl

/-! `raise` -/

@[simp] theorem raise_rbMem (c : FaultCode) (s : State) : (raise c s).rbMem = s.rbMem := rfl
@[simp] theorem raise_rbHead (c : FaultCode) (s : State) : (raise c s).rbHead = s.rbHead := rfl
@[simp] theorem raise_rbTail (c : FaultCode) (s : State) : (raise c s).rbTail = s.rbTail := rfl
@[simp] theorem raise_rbValid (c : FaultCode) (s : State) : (raise c s).rbValid = s.rbValid := rfl
@[simp] theorem raise_initDone (c : FaultCode) (s : State) : (raise c s).initDone = s.initDone := rfl
@[simp] theorem raise_irqArmed (c : FaultCode) (s : State) : (raise c s).irqArmed = s.irqArmed := rfl
@[simp] theorem raise_isrActive (c : FaultCode) (s : State) : (raise c s).isrActive = s.isrActive := rfl
@[simp] theorem raise_fg (c : FaultCode) (s : State) : (raise c s).fg = .halted := rfl
@[simp] theorem raise_fault (c : FaultCode) (s : State) : (raise c s).fault = some c := rfl
@[simp] theorem raise_rspValid (c : FaultCode) (s : State) : (raise c s).rspValid = s.rspValid := rfl
@[simp] theorem raise_rspData (c : FaultCode) (s : State) : (raise c s).rspData = s.rspData := rfl
@[simp] theorem raise_rxq (c : FaultCode) (s : State) : (raise c s).rxq = s.rxq := rfl
@[simp] theorem raise_rxIrqEn (c : FaultCode) (s : State) : (raise c s).rxIrqEn = s.rxIrqEn := rfl
@[simp] theorem raise_txBusy (c : FaultCode) (s : State) : (raise c s).txBusy = s.txBusy := rfl
@[simp] theorem raise_txLog (c : FaultCode) (s : State) : (raise c s).txLog = s.txLog := rfl
@[simp] theorem raise_cfg (c : FaultCode) (s : State) : (raise c s).cfg = s.cfg := rfl
@[simp] theorem raise_port (c : FaultCode) (s : State) : (raise c s).port = s.port := rfl
@[simp] theorem raise_agenda (c : FaultCode) (s : State) : (raise c s).agenda = s.agenda := rfl
@[simp] theorem raise_clock (c : FaultCode) (s : State) : (raise c s).clock = s.clock := rfl

/-! `clearRsp` -/

@[simp] theorem clearRsp_rbMem (s : State) : (clearRsp s).rbMem = s.rbMem := rfl
@[simp] theorem clearRsp_rbHead (s : State) : (clearRsp s).rbHead = s.rbHead := rfl
@[simp] theorem clearRsp_rbTail (s : State) : (clearRsp s).rbTail = s.rbTail := rfl
@[simp] theorem clearRsp_rbValid (s : State) : (clearRsp s).rbValid = s.rbValid := rfl
@[simp] theorem clearRsp_initDone (s : State) : (clearRsp s).initDone = s.initDone := rfl
@[simp] theorem clearRsp_irqArmed (s : State) : (clearRsp s).irqArmed = s.irqArmed := rfl
@[simp] theorem clearRsp_isrActive (s : State) : (clearRsp s).isrActive = s.isrActive := rfl
@[simp] theorem clearRsp_fg (s : State) : (clearRsp s).fg = s.fg := rfl
@[simp] theorem clearRsp_fault (s : State) : (clearRsp s).fault = s.fault := rfl
@[simp] theorem clearRsp_rspValid (s : State) : (clearRsp s).rspValid = false := rfl
@[simp] theorem clearRsp_rspData (s : State) : (clearRsp s).rspData = s.rspData := rfl
@[simp] theorem clearRsp_rxq (s : State) : (clearRsp s).rxq = s.rxq := rfl
@[simp] theorem clearRsp_rxIrqEn (s : State) : (clearRsp s).rxIrqEn = s.rxIrqEn := rfl
@[simp] theorem clearRsp_txBusy (s : State) : (clearRsp s).txBusy = s.txBusy := rfl
@[simp] theorem clearRsp_txLog (s : State) : (clearRsp s).txLog = s.txLog := rfl
@[simp] theorem clearRsp_cfg (s : State) : (clearRsp s).cfg = s.cfg := rfl
@[simp] theorem clearRsp_port (s : State) : (clearRsp s).port = s.port := rfl
@[simp] theorem clearRsp_agenda (s : State) : (clearRsp s).agenda = s.agenda := rfl
@[simp] theorem clearRsp_clock (s : State) : (clearRsp s).clock = s.clock := rfl

/-! `takeCommand` -/

@[simp] theorem takeCommand_rbMem (s : State) : (takeCommand s).rbMem = s.rbMem := rfl
@[simp] theorem takeCommand_rbHead (s : State) : (takeCommand s).rbHead = s.rbHead := rfl
@[simp] theorem takeCommand_rbTail (s : State) : (takeCommand s).rbTail = s.rbTail := rfl
@[simp] theorem takeCommand_rbValid (s : State) : (takeCommand s).rbValid = s.rbValid := rfl
@[simp] theorem takeCommand_initDone (s : State) : (takeCommand s).initDone = s.initDone := rfl
@[simp] theorem takeCommand_irqArmed (s : State) : (takeCommand s).irqArmed = s.irqArmed := rfl
@[simp] theorem takeCommand_isrActive (s : State) : (takeCommand s).isrActive = s.isrActive := rfl
@[simp] theorem takeCommand_fg (s : State) : (takeCommand s).fg = s.fg := rfl
@[simp] theorem takeCommand_fault (s : State) : (takeCommand s).fault = s.fault := rfl
@[simp] theorem takeCommand_rspValid (s : State) : (takeCommand s).rspValid = s.rspValid := rfl
@[simp] theorem takeCommand_rspData (s : State) : (takeCommand s).rspData = s.rspData := rfl
@[simp] theorem takeCommand_rxq (s : State) : (takeCommand s).rxq = s.rxq := rfl
@[simp] theorem takeCommand_rxIrqEn (s : State) : (takeCommand s).rxIrqEn = s.rxIrqEn := rfl
@[simp] theorem takeCommand_txBusy (s : State) : (takeCommand s).txBusy = s.txBusy := rfl
@[simp] theorem takeCommand_txLog (s : State) : (takeCommand s).txLog = s.txLog := rfl
@[simp] theorem takeCommand_cfg (s : State) : (takeCommand s).cfg = s.cfg := rfl
@[simp] theorem takeCommand_port (s : State) : (takeCommand s).port = none := rfl
@[simp] theorem takeCommand_agenda (s : State) : (takeCommand s).agenda = s.agenda := rfl
@[simp] theorem takeCommand_clock (s : State) : (takeCommand s).clock = s.clock := rfl

/-! `enterIsr` -/

@[simp] theorem enterIsr_rbMem (s : State) : (enterIsr s).rbMem = s.rbMem := rfl
@[simp] theorem enterIsr_rbHead (s : State) : (enterIsr s).rbHead = s.rbHead := rfl
@[simp] theorem enterIsr_rbTail (s : State) : (enterIsr s).rbTail = s.rbTail := rfl
@[simp] theorem enterIsr_rbValid (s : State) : (enterIsr s).rbValid = s.rbValid := rfl
@[simp] theorem enterIsr_initDone (s : State) : (enterIsr s).initDone = s.initDone := rfl
@[simp] theorem enterIsr_irqArmed (s : State) : (enterIsr s).irqArmed = s.irqArmed := rfl
@[simp] theorem enterIsr_isrActive (s : State) : (enterIsr s).isrActive = true := rfl
@[simp] theorem enterIsr_fg (s : State) : (enterIsr s).fg = s.fg := rfl
@[simp] theorem enterIsr_fault (s : State) : (enterIsr s).fault = s.fault := rfl
@[simp] theorem enterIsr_rspValid (s : State) : (enterIsr s).rspValid = s.rspValid := rfl
@[simp] theorem enterIsr_rspData (s : State) : (enterIsr s).rspData = s.rspData := rfl
@[simp] theorem enterIsr_rxq (s : State) : (enterIsr s).rxq = s.rxq := rfl
@[simp] theorem enterIsr_rxIrqEn (s : State) : (enterIsr s).rxIrqEn = s.rxIrqEn := rfl
@[simp] theorem enterIsr_txBusy (s : State) : (enterIsr s).txBusy = s.txBusy := rfl
@[simp] theorem enterIsr_txLog (s : State) : (enterIsr s).txLog = s.txLog := rfl
@[simp] theorem enterIsr_cfg (s : State) : (enterIsr s).cfg = s.cfg := rfl
@[simp] theorem enterIsr_port (s : State) : (enterIsr s).port = s.port := rfl
@[simp] theorem enterIsr_agenda (s : State) : (enterIsr s).agenda = s.agenda := rfl
@[simp] theorem enterIsr_clock (s : State) : (enterIsr s).clock = s.clock := rfl

/-! `exitIsr` -/

@[simp] theorem exitIsr_rbMem (s : State) : (exitIsr s).rbMem = s.rbMem := rfl
@[simp] theorem exitIsr_rbHead (s : State) : (exitIsr s).rbHead = s.rbHead := rfl
@[simp] theorem exitIsr_rbTail (s : State) : (exitIsr s).rbTail = s.rbTail := rfl
@[simp] theorem exitIsr_rbValid (s : State) : (exitIsr s).rbValid = s.rbValid := rfl
@[simp] theorem exitIsr_initDone (s : State) : (exitIsr s).initDone = s.initDone := rfl
@[simp] theorem exitIsr_irqArmed (s : State) : (exitIsr s).irqArmed = s.irqArmed := rfl
@[simp] theorem exitIsr_isrActive (s : State) : (exitIsr s).isrActive = false := rfl
@[simp] theorem exitIsr_fg (s : State) : (exitIsr s).fg = s.fg := rfl
@[simp] theorem exitIsr_fault (s : State) : (exitIsr s).fault = s.fault := rfl
@[simp] theorem exitIsr_rspValid (s : State) : (exitIsr s).rspValid = s.rspValid := rfl
@[simp] theorem exitIsr_rspData (s : State) : (exitIsr s).rspData = s.rspData := rfl
@[simp] theorem exitIsr_rxq (s : State) : (exitIsr s).rxq = s.rxq := rfl
@[simp] theorem exitIsr_rxIrqEn (s : State) : (exitIsr s).rxIrqEn = s.rxIrqEn := rfl
@[simp] theorem exitIsr_txBusy (s : State) : (exitIsr s).txBusy = s.txBusy := rfl
@[simp] theorem exitIsr_txLog (s : State) : (exitIsr s).txLog = s.txLog := rfl
@[simp] theorem exitIsr_cfg (s : State) : (exitIsr s).cfg = s.cfg := rfl
@[simp] theorem exitIsr_port (s : State) : (exitIsr s).port = s.port := rfl
@[simp] theorem exitIsr_agenda (s : State) : (exitIsr s).agenda = s.agenda := rfl
@[simp] theorem exitIsr_clock (s : State) : (exitIsr s).clock = s.clock := rfl

/-! `devWriteData` -/

@[simp] theorem devWriteData_rbMem (b : Byte) (d : Bool) (s : State) : (devWriteData b d s).rbMem = s.rbMem := rfl
@[simp] theorem devWriteData_rbHead (b : Byte) (d : Bool) (s : State) : (devWriteData b d s).rbHead = s.rbHead := rfl
@[simp] theorem devWriteData_rbTail (b : Byte) (d : Bool) (s : State) : (devWriteData b d s).rbTail = s.rbTail := rfl
@[simp] theorem devWriteData_rbValid (b : Byte) (d : Bool) (s : State) : (devWriteData b d s).rbValid = s.rbValid := rfl
@[simp] theorem devWriteData_initDone (b : Byte) (d : Bool) (s : State) : (devWriteData b d s).initDone = s.initDone := rfl
@[simp] theorem devWriteData_irqArmed (b : Byte) (d : Bool) (s : State) : (devWriteData b d s).irqArmed = s.irqArmed := rfl
@[simp] theorem devWriteData_isrActive (b : Byte) (d : Bool) (s : State) : (devWriteData b d s).isrActive = s.isrActive := rfl
@[simp] theorem devWriteData_fg (b : Byte) (d : Bool) (s : State) : (devWriteData b d s).fg = s.fg := rfl
@[simp] theorem devWriteData_fault (b : Byte) (d : Bool) (s : State) : (devWriteData b d s).fault = s.fault := rfl
@[simp] theorem devWriteData_rspValid (b : Byte) (d : Bool) (s : State) : (devWriteData b d s).rspValid = s.rspValid := rfl
@[simp] theorem devWriteData_rspData (b : Byte) (d : Bool) (s : State) : (devWriteData b d s).rspData = s.rspData := rfl
@[simp] theorem devWriteData_rxq (b : Byte) (d : Bool) (s : State) : (devWriteData b d s).rxq = s.rxq := rfl
@[simp] theorem devWriteData_rxIrqEn (b : Byte) (d : Bool) (s : State) : (devWriteData b d s).rxIrqEn = s.rxIrqEn := rfl
@[simp] theorem devWriteData_txBusy (b : Byte) (d : Bool) (s : State) : (devWriteData b d s).txBusy = d := rfl
@[simp] theorem devWriteData_txLog (b : Byte) (d : Bool) (s : State) : (devWriteData b d s).txLog = s.txLog ++ [b] := rfl
@[simp] theorem devWriteData_cfg (b : Byte) (d : Bool) (s : State) : (devWriteData b d s).cfg = s.cfg := rfl
@[simp] theorem devWriteData_port (b : Byte) (d : Bool) (s : State) : (devWriteData b d s).port = s.port := rfl
@[simp] theorem devWriteData_agenda (b : Byte) (d : Bool) (s : State) : (devWriteData b d s).agenda = s.agenda := rfl
@[simp] theorem devWriteData_clock (b : Byte) (d : Bool) (s : State) : (devWriteData b d s).clock = s.clock := rfl

/-! `devWriteIe` -/

@[simp] theorem devWriteIe_rbMem (s : State) : (devWriteIe s).rbMem = s.rbMem := rfl
@[simp] theorem devWriteIe_rbHead (s : State) : (devWriteIe s).rbHead = s.rbHead := rfl
@[simp] theorem devWriteIe_rbTail (s : State) : (devWriteIe s).rbTail = s.rbTail := rfl
@[simp] theorem devWriteIe_rbValid (s : State) : (devWriteIe s).rbValid = s.rbValid := rfl
@[simp] theorem devWriteIe_initDone (s : State) : (devWriteIe s).initDone = s.initDone := rfl
@[simp] theorem devWriteIe_irqArmed (s : State) : (devWriteIe s).irqArmed = s.irqArmed := rfl
@[simp] theorem devWriteIe_isrActive (s : State) : (devWriteIe s).isrActive = s.isrActive := rfl
@[simp] theorem devWriteIe_fg (s : State) : (devWriteIe s).fg = s.fg := rfl
@[simp] theorem devWriteIe_fault (s : State) : (devWriteIe s).fault = s.fault := rfl
@[simp] theorem devWriteIe_rspValid (s : State) : (devWriteIe s).rspValid = s.rspValid := rfl
@[simp] theorem devWriteIe_rspData (s : State) : (devWriteIe s).rspData = s.rspData := rfl
@[simp] theorem devWriteIe_rxq (s : State) : (devWriteIe s).rxq = s.rxq := rfl
@[simp] theorem devWriteIe_rxIrqEn (s : State) : (devWriteIe s).rxIrqEn = true := rfl
@[simp] theorem devWriteIe_txBusy (s : State) : (devWriteIe s).txBusy = s.txBusy := rfl
@[simp] theorem devWriteIe_txLog (s : State) : (devWriteIe s).txLog = s.txLog := rfl
@[simp] theorem devWriteIe_cfg (s : State) : (devWriteIe s).cfg = s.cfg := rfl
@[simp] theorem devWriteIe_port (s : State) : (devWriteIe s).port = s.port := rfl
@[simp] theorem devWriteIe_agenda (s : State) : (devWriteIe s).agenda = s.agenda := rfl
@[simp] theorem devWriteIe_clock (s : State) : (devWriteIe s).clock = s.clock := rfl

/-! `envReceive` -/

@[simp] theorem envReceive_rbMem (b : Byte) (s : State) : (envReceive b s).rbMem = s.rbMem := rfl
@[simp] theorem envReceive_rbHead (b : Byte) (s : State) : (envReceive b s).rbHead = s.rbHead := rfl
@[simp] theorem envReceive_rbTail (b : Byte) (s : State) : (envReceive b s).rbTail = s.rbTail := rfl
@[simp] theorem envReceive_rbValid (b : Byte) (s : State) : (envReceive b s).rbValid = s.rbValid := rfl
@[simp] theorem envReceive_initDone (b : Byte) (s : State) : (envReceive b s).initDone = s.initDone := rfl
@[simp] theorem envReceive_irqArmed (b : Byte) (s : State) : (envReceive b s).irqArmed = s.irqArmed := rfl
@[simp] theorem envReceive_isrActive (b : Byte) (s : State) : (envReceive b s).isrActive = s.isrActive := rfl
@[simp] theorem envReceive_fg (b : Byte) (s : State) : (envReceive b s).fg = s.fg := rfl
@[simp] theorem envReceive_fault (b : Byte) (s : State) : (envReceive b s).fault = s.fault := rfl
@[simp] theorem envReceive_rspValid (b : Byte) (s : State) : (envReceive b s).rspValid = s.rspValid := rfl
@[simp] theorem envReceive_rspData (b : Byte) (s : State) : (envReceive b s).rspData = s.rspData := rfl
@[simp] theorem envReceive_rxq (b : Byte) (s : State) : (envReceive b s).rxq = s.rxq ++ [b] := rfl
@[simp] theorem envReceive_rxIrqEn (b : Byte) (s : State) : (envReceive b s).rxIrqEn = s.rxIrqEn := rfl
@[simp] theorem envReceive_txBusy (b : Byte) (s : State) : (envReceive b s).txBusy = s.txBusy := rfl
@[simp] theorem envReceive_txLog (b : Byte) (s : State) : (envReceive b s).txLog = s.txLog := rfl
@[simp] theorem envReceive_cfg (b : Byte) (s : State) : (envReceive b s).cfg = s.cfg := rfl
@[simp] theorem envReceive_port (b : Byte) (s : State) : (envReceive b s).port = s.port := rfl
@[simp] theorem envReceive_agenda (b : Byte) (s : State) : (envReceive b s).agenda = s.agenda := rfl
@[simp] theorem envReceive_clock (b : Byte) (s : State) : (envReceive b s).clock = s.clock := rfl

/-! `envSetBusy` -/

@[simp] theorem envSetBusy_rbMem (d : Bool) (s : State) : (envSetBusy d s).rbMem = s.rbMem := rfl
@[simp] theorem envSetBusy_rbHead (d : Bool) (s : State) : (envSetBusy d s).rbHead = s.rbHead := rfl
@[simp] theorem envSetBusy_rbTail (d : Bool) (s : State) : (envSetBusy d s).rbTail = s.rbTail := rfl
@[simp] theorem envSetBusy_rbValid (d : Bool) (s : State) : (envSetBusy d s).rbValid = s.rbValid := rfl
@[simp] theorem envSetBusy_initDone (d : Bool) (s : State) : (envSetBusy d s).initDone = s.initDone := rfl
@[simp] theorem envSetBusy_irqArmed (d : Bool) (s : State) : (envSetBusy d s).irqArmed = s.irqArmed := rfl
@[simp] theorem envSetBusy_isrActive (d : Bool) (s : State) : (envSetBusy d s).isrActive = s.isrActive := rfl
@[simp] theorem envSetBusy_fg (d : Bool) (s : State) : (envSetBusy d s).fg = s.fg := rfl
@[simp] theorem envSetBusy_fault (d : Bool) (s : State) : (envSetBusy d s).fault = s.fault := rfl
@[simp] theorem envSetBusy_rspValid (d : Bool) (s : State) : (envSetBusy d s).rspValid = s.rspValid := rfl
@[simp] theorem envSetBusy_rspData (d : Bool) (s : State) : (envSetBusy d s).rspData = s.rspData := rfl
@[simp] theorem envSetBusy_rxq (d : Bool) (s : State) : (envSetBusy d s).rxq = s.rxq := rfl
@[simp] theorem envSetBusy_rxIrqEn (d : Bool) (s : State) : (envSetBusy d s).rxIrqEn = s.rxIrqEn := rfl
@[simp] theorem envSetBusy_txBusy (d : Bool) (s : State) : (envSetBusy d s).txBusy = d := rfl
@[simp] theorem envSetBusy_txLog (d : Bool) (s : State) : (envSetBusy d s).txLog = s.txLog := rfl
@[simp] theorem envSetBusy_cfg (d : Bool) (s : State) : (envSetBusy d s).cfg = s.cfg := rfl
@[simp] theorem envSetBusy_port (d : Bool) (s : State) : (envSetBusy d s).port = s.port := rfl
@[simp] theorem envSetBusy_agenda (d : Bool) (s : State) : (envSetBusy d s).agenda = s.agenda := rfl
@[simp] theorem envSetBusy_clock (d : Bool) (s : State) : (envSetBusy d s).clock = s.clock := rfl

/-! `callerDrive` -/

@[simp] theorem callerDrive_rbMem (p : Option CmdWord) (s : State) : (callerDrive p s).rbMem = s.rbMem := rfl
@[simp] theorem callerDrive_rbHead (p : Option CmdWord) (s : State) : (callerDrive p s).rbHead = s.rbHead := rfl
@[simp] theorem callerDrive_rbTail (p : Option CmdWord) (s : State) : (callerDrive p s).rbTail = s.rbTail := rfl
@[simp] theorem callerDrive_rbValid (p : Option CmdWord) (s : State) : (callerDrive p s).rbValid = s.rbValid := rfl
@[simp] theorem callerDrive_initDone (p : Option CmdWord) (s : State) : (callerDrive p s).initDone = s.initDone := rfl
@[simp] theorem callerDrive_irqArmed (p : Option CmdWord) (s : State) : (callerDrive p s).irqArmed = s.irqArmed := rfl
@[simp] theorem callerDrive_isrActive (p : Option CmdWord) (s : State) : (callerDrive p s).isrActive = s.isrActive := rfl
@[simp] theorem callerDrive_fg (p : Option CmdWord) (s : State) : (callerDrive p s).fg = s.fg := rfl
@[simp] theorem callerDrive_fault (p : Option CmdWord) (s : State) : (callerDrive p s).fault = s.fault := rfl
@[simp] theorem callerDrive_rspValid (p : Option CmdWord) (s : State) : (callerDrive p s).rspValid = s.rspValid := rfl
@[simp] theorem callerDrive_rspData (p : Option CmdWord) (s : State) : (callerDrive p s).rspData = s.rspData := rfl
@[simp] theorem callerDrive_rxq (p : Option CmdWord) (s : State) : (callerDrive p s).rxq = s.rxq := rfl
@[simp] theorem callerDrive_rxIrqEn (p : Option CmdWord) (s : State) : (callerDrive p s).rxIrqEn = s.rxIrqEn := rfl
@[simp] theorem callerDrive_txBusy (p : Option CmdWord) (s : State) : (callerDrive p s).txBusy = s.txBusy := rfl
@[simp] theorem callerDrive_txLog (p : Option CmdWord) (s : State) : (callerDrive p s).txLog = s.txLog := rfl
@[simp] theorem callerDrive_cfg (p : Option CmdWord) (s : State) : (callerDrive p s).cfg = s.cfg := rfl
@[simp] theorem callerDrive_port (p : Option CmdWord) (s : State) : (callerDrive p s).port = p := rfl
@[simp] theorem callerDrive_agenda (p : Option CmdWord) (s : State) : (callerDrive p s).agenda = s.agenda := rfl
@[simp] theorem callerDrive_clock (p : Option CmdWord) (s : State) : (callerDrive p s).clock = s.clock := rfl

/-! `armProducer` -/

@[simp] theorem armProducer_rbMem (s : State) : (armProducer s).rbMem = s.rbMem := rfl
@[simp] theorem armProducer_rbHead (s : State) : (armProducer s).rbHead = s.rbHead := rfl
@[simp] theorem armProducer_rbTail (s : State) : (armProducer s).rbTail = s.rbTail := rfl
@[simp] theorem armProducer_rbValid (s : State) : (armProducer s).rbValid = s.rbValid := rfl
@[simp] theorem armProducer_initDone (s : State) : (armProducer s).initDone = s.initDone := rfl
@[simp] theorem armProducer_irqArmed (s : State) : (armProducer s).irqArmed = true := rfl
@[simp] theorem armProducer_isrActive (s : State) : (armProducer s).isrActive = s.isrActive := rfl
@[simp] theorem armProducer_fg (s : State) : (armProducer s).fg = s.fg := rfl
@[simp] theorem armProducer_fault (s : State) : (armProducer s).fault = s.fault := rfl
@[simp] theorem armProducer_rspValid (s : State) : (armProducer s).rspValid = s.rspValid := rfl
@[simp] theorem armProducer_rspData (s : State) : (armProducer s).rspData = s.rspData := rfl
@[simp] theorem armProducer_rxq (s : State) : (armProducer s).rxq = s.rxq := rfl
@[simp] theorem armProducer_rxIrqEn (s : State) : (armProducer s).rxIrqEn = s.rxIrqEn := rfl
@[simp] theorem armProducer_txBusy (s : State) : (armProducer s).txBusy = s.txBusy := rfl
@[simp] theorem armProducer_txLog (s : State) : (armProducer s).txLog = s.txLog := rfl
@[simp] theorem armProducer_cfg (s : State) : (armProducer s).cfg = s.cfg := rfl
@[simp] theorem armProducer_port (s : State) : (armProducer s).port = s.port := rfl
@[simp] theorem armProducer_agenda (s : State) : (armProducer s).agenda = s.agenda := rfl
@[simp] theorem armProducer_clock (s : State) : (armProducer s).clock = s.clock := rfl

/-! `markInitDone` -/

@[simp] theorem markInitDone_rbMem (s : State) : (markInitDone s).rbMem = s.rbMem := rfl
@[simp] theorem markInitDone_rbHead (s : State) : (markInitDone s).rbHead = s.rbHead := rfl
@[simp] theorem markInitDone_rbTail (s : State) : (markInitDone s).rbTail = s.rbTail := rfl
@[simp] theorem markInitDone_rbValid (s : State) : (markInitDone s).rbValid = s.rbValid := rfl
@[simp] theorem markInitDone_initDone (s : State) : (markInitDone s).initDone = true := rfl
@[simp] theorem markInitDone_irqArmed (s : State) : (markInitDone s).irqArmed = s.irqArmed := rfl
@[simp] theorem markInitDone_isrActive (s : State) : (markInitDone s).isrActive = s.isrActive := rfl
@[simp] theorem markInitDone_fg (s : State) : (markInitDone s).fg = s.fg := rfl
@[simp] theorem markInitDone_fault (s : State) : (markInitDone s).fault = s.fault := rfl
@[simp] theorem markInitDone_rspValid (s : State) : (markInitDone s).rspValid = s.rspValid := rfl
@[simp] theorem markInitDone_rspData (s : State) : (markInitDone s).rspData = s.rspData := rfl
@[simp] theorem markInitDone_rxq (s : State) : (markInitDone s).rxq = s.rxq := rfl
@[simp] theorem markInitDone_rxIrqEn (s : State) : (markInitDone s).rxIrqEn = s.rxIrqEn := rfl
@[simp] theorem markInitDone_txBusy (s : State) : (markInitDone s).txBusy = s.txBusy := rfl
@[simp] theorem markInitDone_txLog (s : State) : (markInitDone s).txLog = s.txLog := rfl
@[simp] theorem markInitDone_cfg (s : State) : (markInitDone s).cfg = s.cfg := rfl
@[simp] theorem markInitDone_port (s : State) : (markInitDone s).port = s.port := rfl
@[simp] theorem markInitDone_agenda (s : State) : (markInitDone s).agenda = s.agenda := rfl
@[simp] theorem markInitDone_clock (s : State) : (markInitDone s).clock = s.clock := rfl

/-! `rbReset` -/

@[simp] theorem rbReset_rbMem (s : State) : (rbReset s).rbMem = s.rbMem := rfl
@[simp] theorem rbReset_rbHead (s : State) : (rbReset s).rbHead = 0 := rfl
@[simp] theorem rbReset_rbTail (s : State) : (rbReset s).rbTail = 0 := rfl
@[simp] theorem rbReset_rbValid (s : State) : (rbReset s).rbValid = true := rfl
@[simp] theorem rbReset_initDone (s : State) : (rbReset s).initDone = s.initDone := rfl
@[simp] theorem rbReset_irqArmed (s : State) : (rbReset s).irqArmed = s.irqArmed := rfl
@[simp] theorem rbReset_isrActive (s : State) : (rbReset s).isrActive = s.isrActive := rfl
@[simp] theorem rbReset_fg (s : State) : (rbReset s).fg = s.fg := rfl
@[simp] theorem rbReset_fault (s : State) : (rbReset s).fault = s.fault := rfl
@[simp] theorem rbReset_rspValid (s : State) : (rbReset s).rspValid = s.rspValid := rfl
@[simp] theorem rbReset_rspData (s : State) : (rbReset s).rspData = s.rspData := rfl
@[simp] theorem rbReset_rxq (s : State) : (rbReset s).rxq = s.rxq := rfl
@[simp] theorem rbReset_rxIrqEn (s : State) : (rbReset s).rxIrqEn = s.rxIrqEn := rfl
@[simp] theorem rbReset_txBusy (s : State) : (rbReset s).txBusy = s.txBusy := rfl
@[simp] theorem rbReset_txLog (s : State) : (rbReset s).txLog = s.txLog := rfl
@[simp] theorem rbReset_cfg (s : State) : (rbReset s).cfg = s.cfg := rfl
@[simp] theorem rbReset_port (s : State) : (rbReset s).port = s.port := rfl
@[simp] theorem rbReset_agenda (s : State) : (rbReset s).agenda = s.agenda := rfl
@[simp] theorem rbReset_clock (s : State) : (rbReset s).clock = s.clock := rfl

/-! `advance` -/

@[simp] theorem advance_rbMem (s : State) : (s.advance).rbMem = s.rbMem := rfl
@[simp] theorem advance_rbHead (s : State) : (s.advance).rbHead = s.rbHead := rfl
@[simp] theorem advance_rbTail (s : State) : (s.advance).rbTail = s.rbTail := rfl
@[simp] theorem advance_rbValid (s : State) : (s.advance).rbValid = s.rbValid := rfl
@[simp] theorem advance_initDone (s : State) : (s.advance).initDone = s.initDone := rfl
@[simp] theorem advance_irqArmed (s : State) : (s.advance).irqArmed = s.irqArmed := rfl
@[simp] theorem advance_isrActive (s : State) : (s.advance).isrActive = s.isrActive := rfl
@[simp] theorem advance_fg (s : State) : (s.advance).fg = s.fg := rfl
@[simp] theorem advance_fault (s : State) : (s.advance).fault = s.fault := rfl
@[simp] theorem advance_rspValid (s : State) : (s.advance).rspValid = s.rspValid := rfl
@[simp] theorem advance_rspData (s : State) : (s.advance).rspData = s.rspData := rfl
@[simp] theorem advance_rxq (s : State) : (s.advance).rxq = s.rxq := rfl
@[simp] theorem advance_rxIrqEn (s : State) : (s.advance).rxIrqEn = s.rxIrqEn := rfl
@[simp] theorem advance_txBusy (s : State) : (s.advance).txBusy = s.txBusy := rfl
@[simp] theorem advance_txLog (s : State) : (s.advance).txLog = s.txLog := rfl
@[simp] theorem advance_cfg (s : State) : (s.advance).cfg = s.cfg := rfl
@[simp] theorem advance_port (s : State) : (s.advance).port = s.port := rfl
@[simp] theorem advance_agenda (s : State) : (s.advance).agenda = s.agenda.tail := rfl
@[simp] theorem advance_clock (s : State) : (s.advance).clock = s.clock + 1 := rfl

end Sys2Proof.Machine
end

