-- ==== Sys2Proof/Laws/Memory.lean ====
section
/-! SUPPORT. The laws of ring storage: what a read gives after a write, and that a write keeps the canonical
form and the range of indices. -/

namespace Sys2Proof.Machine

theorem Memory.place_cases (i : Nat) (b : Byte) (rest : Memory) :
    (b = Memory.unlisted ∧ Memory.place i b rest = rest) ∨
      (b ≠ Memory.unlisted ∧ Memory.place i b rest = (i, b) :: rest) := by
  by_cases h : b = Memory.unlisted <;> simp [Memory.place, h]

/-- Below every listed index, a storage reads as nothing listed. -/
theorem Memory.read_below {m : Memory} {i : Nat} (h : ∀ c ∈ m, i < c.1) :
    Memory.read m i = Memory.unlisted := by
  cases m with
  | nil => rfl
  | cons c rest =>
    have := h c (by simp)
    simp [Memory.read, Nat.ne_of_gt this, this]

/-- A read after a write of the same slot gives the byte written. -/
theorem Memory.read_write_same {m : Memory} (h : Memory.wf m) (i : Nat) (b : Byte) :
    Memory.read (Memory.write m i b) i = b := by
  induction m with
  | nil =>
    rcases Memory.place_cases i b [] with ⟨hb, e⟩ | ⟨-, e⟩ <;> simp [Memory.write, e, Memory.read]
    exact hb.symm
  | cons c rest ih =>
    obtain ⟨hs, hn⟩ := h
    rw [List.pairwise_cons] at hs
    have hrest : Memory.wf rest := ⟨hs.2, fun d hd => hn d (by simp [hd])⟩
    unfold Memory.write
    split
    · rename_i hc
      rcases Memory.place_cases i b rest with ⟨hb, e⟩ | ⟨-, e⟩
      · rw [e, hb]
        exact Memory.read_below fun d hd => hc ▸ hs.1 d hd
      · simp [e, Memory.read]
    · split
      · rename_i hlt
        rcases Memory.place_cases i b (c :: rest) with ⟨hb, e⟩ | ⟨-, e⟩
        · rw [e, hb]
          refine Memory.read_below fun d hd => ?_
          rcases List.mem_cons.1 hd with rfl | hd
          · exact hlt
          · exact Nat.lt_trans hlt (hs.1 d hd)
        · simp [e, Memory.read]
      · rename_i hne hge
        simp [Memory.read, hne, hge, ih hrest]

/-- A write leaves every other slot as it was. -/
theorem Memory.read_write_other {m : Memory} (h : Memory.wf m) {i j : Nat} (b : Byte) (hij : j ≠ i) :
    Memory.read (Memory.write m i b) j = Memory.read m j := by
  induction m with
  | nil =>
    rcases Memory.place_cases i b [] with ⟨-, e⟩ | ⟨-, e⟩ <;>
      simp [Memory.write, e, Memory.read, Ne.symm hij]
  | cons c rest ih =>
    obtain ⟨hs, hn⟩ := h
    rw [List.pairwise_cons] at hs
    have hrest : Memory.wf rest := ⟨hs.2, fun d hd => hn d (by simp [hd])⟩
    unfold Memory.write
    split
    · rename_i hc
      have hcj : c.1 ≠ j := fun e => hij (e ▸ hc)
      have below : j < c.1 → Memory.read rest j = Memory.unlisted := fun hlt =>
        Memory.read_below fun d hd => Nat.lt_trans hlt (hs.1 d hd)
      rcases Memory.place_cases i b rest with ⟨-, e⟩ | ⟨-, e⟩
      · by_cases hlt : j < c.1
        · simp [e, Memory.read, hcj, hlt, below hlt]
        · simp [e, Memory.read, hcj, hlt]
      · rw [e, Memory.read, Memory.read]
        simp [Ne.symm hij, hc]
    · split
      · rename_i hlt
        rcases Memory.place_cases i b (c :: rest) with ⟨-, e⟩ | ⟨-, e⟩
        · rw [e]
        · by_cases hji : j < i
          · have hb : Memory.read (c :: rest) j = Memory.unlisted := by
              refine Memory.read_below fun d hd => ?_
              rcases List.mem_cons.1 hd with rfl | hd
              · exact Nat.lt_trans hji hlt
              · exact Nat.lt_trans (Nat.lt_trans hji hlt) (hs.1 d hd)
            rw [e, hb]
            simp [Memory.read, Ne.symm hij, hji]
          · rw [e, Memory.read]
            simp [Ne.symm hij, hji]
      · simp [Memory.read, ih hrest]

theorem Memory.mem_write {m : Memory} {i : Nat} {b : Byte} {c : Host.Cell} (h : c ∈ Memory.write m i b) :
    c = (i, b) ∧ b ≠ Memory.unlisted ∨ c ∈ m := by
  have placed : ∀ rest : Memory, c ∈ Memory.place i b rest → c = (i, b) ∧ b ≠ Memory.unlisted ∨ c ∈ rest := by
    intro rest hc
    rcases Memory.place_cases i b rest with ⟨-, e⟩ | ⟨hb, e⟩ <;> rw [e] at hc
    · exact .inr hc
    · rcases List.mem_cons.1 hc with rfl | hc
      · exact .inl ⟨rfl, hb⟩
      · exact .inr hc
  induction m with
  | nil => exact placed [] h
  | cons d rest ih =>
    unfold Memory.write at h
    split at h
    · exact (placed rest h).imp id fun hc => by simp [hc]
    · split at h
      · exact placed _ h
      · rcases List.mem_cons.1 h with rfl | hc
        · simp
        · exact (ih hc).imp id fun hc => by simp [hc]

/-- A write keeps the canonical form. -/
theorem Memory.write_wf {m : Memory} (h : Memory.wf m) (i : Nat) (b : Byte) : Memory.wf (Memory.write m i b) := by
  refine ⟨?_, fun c hc => ?_⟩
  · have placed : ∀ rest : Memory, rest.Pairwise (fun x y => x.1 < y.1) → (∀ c ∈ rest, i < c.1) →
        (Memory.place i b rest).Pairwise (fun x y => x.1 < y.1) := by
      intro rest hr hlt
      rcases Memory.place_cases i b rest with ⟨-, e⟩ | ⟨-, e⟩ <;> rw [e]
      · exact hr
      · exact List.pairwise_cons.2 ⟨hlt, hr⟩
    induction m with
    | nil => exact placed [] .nil (by simp)
    | cons c rest ih =>
      obtain ⟨hs, hn⟩ := h
      have hs' := List.pairwise_cons.1 hs
      unfold Memory.write
      split
      · rename_i hc
        exact placed rest hs'.2 fun d hd => hc ▸ hs'.1 d hd
      · split
        · rename_i hlt
          refine placed _ hs fun d hd => ?_
          rcases List.mem_cons.1 hd with rfl | hd
          · exact hlt
          · exact Nat.lt_trans hlt (hs'.1 d hd)
        · rename_i hne hge
          refine List.pairwise_cons.2 ⟨fun d hd => ?_, ih ⟨hs'.2, fun d hd => hn d (by simp [hd])⟩⟩
          rcases Memory.mem_write hd with ⟨rfl, -⟩ | hd
          · exact Nat.lt_of_le_of_ne (Nat.le_of_not_lt hge) hne
          · exact hs'.1 d hd
  · rcases Memory.mem_write hc with ⟨rfl, hb⟩ | hc
    · exact hb
    · exact h.2 c hc

/-- A write inside `[0, n)` keeps every listed index inside `[0, n)`. -/
theorem Memory.write_within {m : Memory} {n i : Nat} (h : Memory.within m n) (hi : i < n) (b : Byte) :
    Memory.within (Memory.write m i b) n := fun c hc => by
  rcases Memory.mem_write hc with ⟨rfl, -⟩ | hc
  · exact hi
  · exact h c hc

theorem reset_memory_wf : Memory.wf State.reset.rbMem := by decide

end Sys2Proof.Machine
end

