-- ==== Sys2Proof/Laws/Ring.lean ====
section
/-! SUPPORT. What the shared operations over the ring can do, each said once, and how a push and a pop change
the ring's contents. -/

namespace Sys2Proof.Machine

theorem Result.andThen_next {α β : Type} (a : α) (f : α → Result β) : Result.andThen (.next a) f = f a := rfl

theorem Result.andThen_fault {α β : Type} (r : Fault) (f : α → Result β) :
    Result.andThen (.fault r) f = .fault r := rfl

theorem memRead_next {i : Nat} {s : State} (h : i < s.cfg.N) : memRead i s = .next (Memory.read s.rbMem i) := by
  simp [memRead, h]

theorem memWrite_next {i : Nat} {b : Byte} {s : State} (h : i < s.cfg.N) :
    memWrite i b s = .next { s with rbMem := Memory.write s.rbMem i b } := by
  simp [memWrite, h]

/-- `rb_try_push` with its write index in range: a full ring changes nothing, otherwise the byte is stored at
`head` and `head` moves on. -/
theorem rbTryPush_cases (b : Byte) {s : State} (h : s.rbHead < s.cfg.N) :
    (s.ringFull = true ∧ rbTryPush b s = .next (s, false)) ∨
      (s.ringFull = false ∧
        rbTryPush b s =
          .next ({ s with rbMem := Memory.write s.rbMem s.rbHead b, rbHead := s.nextIndex s.rbHead }, true)) := by
  cases hf : s.ringFull
  · exact .inr ⟨rfl, by simp [rbTryPush, hf, memWrite_next h, Result.andThen_next]⟩
  · exact .inl ⟨rfl, by simp [rbTryPush, hf]⟩

/-- `rb_pop` with its read index in range: an empty ring raises `F_POP_EMPTY`, otherwise the byte at `tail`
is answered and `tail` moves on. -/
theorem rbPop_cases {s : State} (h : s.rbTail < s.cfg.N) :
    (s.ringEmpty = true ∧ rbPop s = .next (raise .popEmpty s, none)) ∨
      (s.ringEmpty = false ∧
        rbPop s = .next ({ s with rbTail := s.nextIndex s.rbTail }, some (Memory.read s.rbMem s.rbTail))) := by
  cases he : s.ringEmpty
  · exact .inr ⟨rfl, by simp [rbPop, he, memRead_next h, Result.andThen_next]⟩
  · exact .inl ⟨rfl, by simp [rbPop, he]⟩

theorem nextIndex_lt {s : State} (h : 0 < s.cfg.N) (i : Nat) : s.nextIndex i < s.cfg.N := Nat.mod_lt _ h

/-- The number of bytes in the ring, by whether the contents wrap. -/
theorem ringCount_eq {s : State} (hh : s.rbHead < s.cfg.N) (ht : s.rbTail < s.cfg.N) :
    s.ringCount = if s.rbTail ≤ s.rbHead then s.rbHead - s.rbTail else s.rbHead + s.cfg.N - s.rbTail := by
  unfold State.ringCount
  split
  · have : (s.rbHead : Int) - s.rbTail = ((s.rbHead - s.rbTail : Nat) : Int) := by omega
    rw [this, ← Int.natCast_mod, Int.toNat_natCast, Nat.mod_eq_of_lt (by omega)]
  · have : ((s.rbHead : Int) - s.rbTail) % s.cfg.N = ((s.rbHead + s.cfg.N - s.rbTail : Nat) : Int) := by
      rw [← Int.add_emod_right, show (s.rbHead : Int) - s.rbTail + s.cfg.N =
        ((s.rbHead + s.cfg.N - s.rbTail : Nat) : Int) by omega, ← Int.natCast_mod, Nat.mod_eq_of_lt (by omega)]
    rw [this, Int.toNat_natCast]

/-- The index after `i`, by whether it wraps. -/
theorem nextIndex_eq {s : State} {i : Nat} (h : i < s.cfg.N) :
    s.nextIndex i = if i + 1 = s.cfg.N then 0 else i + 1 := by
  unfold State.nextIndex
  split
  · rename_i e
    rw [e, Nat.mod_self]
  · exact Nat.mod_eq_of_lt (by omega)

/-- The slot `k` places after the tail, by whether it wraps. -/
theorem slot_eq {n t k : Nat} (ht : t < n) (hk : k < n) : (t + k) % n = if t + k < n then t + k else t + k - n := by
  split
  · exact Nat.mod_eq_of_lt ‹_›
  · rw [Nat.mod_eq_sub_mod (by omega), Nat.mod_eq_of_lt (by omega)]

theorem ringCount_lt {s : State} (h : 0 < s.cfg.N) : s.ringCount < s.cfg.N := by
  unfold State.ringCount
  have h1 := Int.emod_nonneg ((s.rbHead : Int) - s.rbTail) (b := (s.cfg.N : Int)) (by omega)
  have h2 := Int.emod_lt_of_pos ((s.rbHead : Int) - s.rbTail) (b := (s.cfg.N : Int)) (by omega)
  omega

/-- The contents depend on the ring alone. -/
theorem contents_congr {s t : State} (hm : t.rbMem = s.rbMem) (hh : t.rbHead = s.rbHead)
    (ht : t.rbTail = s.rbTail) (hc : t.cfg = s.cfg) : t.contents = s.contents := by
  simp [State.contents, State.ringCount, hm, hh, ht, hc]

theorem ringCount_push {s : State} (hh : s.rbHead < s.cfg.N) (ht : s.rbTail < s.cfg.N)
    (hf : s.ringFull = false) (m : Memory) :
    State.ringCount { s with rbMem := m, rbHead := s.nextIndex s.rbHead } = s.ringCount + 1 := by
  have hn : 0 < s.cfg.N := by omega
  have hf' : s.nextIndex s.rbHead ≠ s.rbTail := by simpa [State.ringFull] using hf
  have h1 := ringCount_eq hh ht
  have h2 := ringCount_eq (s := { s with rbMem := m, rbHead := s.nextIndex s.rbHead })
    (nextIndex_lt hn s.rbHead) ht
  rw [h1, h2]
  have e := nextIndex_eq hh
  simp only
  split at e <;> split <;> split <;> omega

/-- A successful push appends the byte to the contents. -/
theorem contents_push {s : State} (hw : Memory.wf s.rbMem) (hh : s.rbHead < s.cfg.N)
    (ht : s.rbTail < s.cfg.N) (hf : s.ringFull = false) (b : Byte) :
    State.contents { s with rbMem := Memory.write s.rbMem s.rbHead b, rbHead := s.nextIndex s.rbHead } =
      s.contents ++ [b] := by
  have hn : 0 < s.cfg.N := by omega
  have hlt := ringCount_lt hn
  have slot : (s.rbTail + s.ringCount) % s.cfg.N = s.rbHead := by
    rw [slot_eq ht hlt, ringCount_eq hh ht]
    split <;> split <;> omega
  unfold State.contents
  rw [ringCount_push hh ht hf, List.range_succ, List.map_append]
  congr 1
  · refine List.map_congr_left fun k hk => ?_
    rw [List.mem_range] at hk
    refine Memory.read_write_other hw b fun e => ?_
    rw [slot_eq ht (by omega)] at e
    rw [ringCount_eq hh ht] at hk
    split at e <;> split at hk <;> omega
  · simp [slot, Memory.read_write_same hw]

/-- A successful pop takes the first byte off the contents. -/
theorem contents_pop {s : State} (hh : s.rbHead < s.cfg.N) (ht : s.rbTail < s.cfg.N) (he : s.ringEmpty = false) :
    s.contents =
      Memory.read s.rbMem s.rbTail :: State.contents { s with rbTail := s.nextIndex s.rbTail } := by
  have hn : 0 < s.cfg.N := by omega
  have he' : s.rbHead ≠ s.rbTail := by simpa [State.ringEmpty] using he
  have e := nextIndex_eq ht
  have ht' := nextIndex_lt hn s.rbTail
  have hc : s.ringCount = State.ringCount { s with rbTail := s.nextIndex s.rbTail } + 1 := by
    rw [ringCount_eq hh ht, ringCount_eq (s := { s with rbTail := s.nextIndex s.rbTail }) hh ht']
    simp only
    split at e <;> split <;> split <;> omega
  have hlt := ringCount_lt hn
  unfold State.contents
  rw [hc, List.range_succ_eq_map, List.map_cons, List.map_map]
  congr 1
  · simp [Nat.mod_eq_of_lt ht]
  · refine List.map_congr_left fun k hk => ?_
    rw [List.mem_range] at hk
    simp only [Function.comp]
    congr 1
    rw [slot_eq ht (by omega), slot_eq ht' (by omega)]
    split at e <;> split <;> split <;> omega

theorem contents_nil_iff {s : State} (hh : s.rbHead < s.cfg.N) (ht : s.rbTail < s.cfg.N) :
    s.contents = [] ↔ s.ringEmpty = true := by
  simp only [State.contents, List.map_eq_nil_iff, List.range_eq_nil, State.ringEmpty, decide_eq_true_eq]
  rw [ringCount_eq hh ht]
  split <;> omega

end Sys2Proof.Machine
end

