-- ==== Sys2Proof/Laws/Exec.lean ====
section
/-! SUPPORT. What each operation and each agent's move comes to, said once: acceptance, the nine meanings in
a ready block, the producer's, decoder's and transmitter's steps, and a step as its move. -/

namespace Sys2Proof.Machine

/-! ### Acceptance -/

theorem accept_ready {body : State → Result State} {s : State} (h : s.cmdReady = true) :
    accept body s = body (clearRsp s) := by simp [accept, h]

theorem accept_waits {body : State → Result State} {s : State} (h : s.cmdReady = false) :
    accept body s = .next s := by simp [accept, h]

theorem cmdReady_iff {s : State} :
    s.cmdReady = true ↔ s.fg = .idle ∧ s.isrActive = false ∧ s.fault = none := by
  simp [State.cmdReady, and_assoc]

@[simp] theorem takeCommand_cmdReady (s : State) : (takeCommand s).cmdReady = s.cmdReady := rfl

@[simp] theorem advance_cmdReady (s : State) : s.advance.cmdReady = s.cmdReady := rfl

@[simp] theorem clearRsp_ringFull (s : State) : (clearRsp s).ringFull = s.ringFull := rfl

@[simp] theorem clearRsp_ringEmpty (s : State) : (clearRsp s).ringEmpty = s.ringEmpty := rfl

@[simp] theorem clearRsp_contents (s : State) : (clearRsp s).contents = s.contents := rfl

/-! ### The meanings in a ready block -/

theorem execInit_ready {s : State} (h : s.cmdReady = true) :
    exec .init s = .next (if s.initDone then raise .reinit (clearRsp s)
      else respond 0 (markInitDone (armProducer (devWriteIe (rbReset (clearRsp s)))))) := by
  cases hi : s.initDone <;> simp [exec, execInit, accept_ready h, hi]

theorem execReadKey_ready {s : State} (h : s.cmdReady = true) :
    exec .readKey s = .next (if s.initDone then { clearRsp s with fg := .readKey [] }
      else raise .notInit (clearRsp s)) := by
  cases hi : s.initDone <;> simp [exec, execReadKey, accept_ready h, hi]

theorem execWriteKey_ready {s : State} (h : s.cmdReady = true) (code : KeyCode) :
    exec (.writeKey code) s = .next (if s.initDone then { clearRsp s with fg := .tx (encodeKey s.cfg.table code) 0 }
      else raise .notInit (clearRsp s)) := by
  cases hi : s.initDone <;> simp [exec, execWriteKey, accept_ready h, hi]

theorem execTTxByte_ready {s : State} (h : s.cmdReady = true) (b : Byte) :
    exec (.tTxByte b) s = .next { clearRsp s with fg := .tx [b] 0 } := by
  simp [exec, execTTxByte, accept_ready h]

theorem execTRbReset_ready {s : State} (h : s.cmdReady = true) :
    exec .tRbReset s = .next (if s.irqArmed then raise .spsc (clearRsp s)
      else respond 0 (rbReset (clearRsp s))) := by
  cases ha : s.irqArmed <;> simp [exec, execTRbReset, accept_ready h, ha]

theorem execTRbTryPush_ready {s : State} (h : s.cmdReady = true) (b : Byte) :
    exec (.tRbTryPush b) s =
      if s.irqArmed then .next (raise .spsc (clearRsp s))
      else if s.rbValid then
        Result.andThen (rbTryPush b (clearRsp s)) fun r => .next (respond (boolResponse r.2) r.1)
      else .next (raise .notInit (clearRsp s)) := by
  cases ha : s.irqArmed <;> cases hv : s.rbValid <;> simp [exec, execTRbTryPush, accept_ready h, ha, hv]

theorem execTRbIsEmpty_ready {s : State} (h : s.cmdReady = true) :
    exec .tRbIsEmpty s = .next (if s.rbValid then respond (boolResponse s.ringEmpty) (clearRsp s)
      else raise .notInit (clearRsp s)) := by
  cases hv : s.rbValid <;> simp [exec, execTRbIsEmpty, accept_ready h, hv, rbIsEmpty]

/-- T_RB_POP with its read index in range: one of its three ways. -/
theorem execTRbPop_cases {s : State} (h : s.cmdReady = true) (ht : s.rbTail < s.cfg.N) :
    (s.rbValid = false ∧ exec .tRbPop s = .next (raise .notInit (clearRsp s))) ∨
      (s.rbValid = true ∧ s.ringEmpty = true ∧ exec .tRbPop s = .next (raise .popEmpty (clearRsp s))) ∨
      (s.rbValid = true ∧ s.ringEmpty = false ∧
        exec .tRbPop s = .next (respond (zext32 (Memory.read s.rbMem s.rbTail))
          { clearRsp s with rbTail := s.nextIndex s.rbTail })) := by
  cases hv : s.rbValid
  · exact .inl ⟨rfl, by simp [exec, execTRbPop, accept_ready h, hv]⟩
  · rcases rbPop_cases (s := clearRsp s) ht with ⟨he, e⟩ | ⟨he, e⟩
    · exact .inr (.inl ⟨rfl, he, by simp [exec, execTRbPop, accept_ready h, hv, e, Result.andThen_next]⟩)
    · exact .inr (.inr ⟨rfl, he, by
        simp [exec, execTRbPop, accept_ready h, hv, e, Result.andThen_next, State.nextIndex]⟩)

theorem execIrqRx_cases (s : State) :
    (s.irqTakeable = true ∧ exec .irqRx s = .next (enterIsr s)) ∨
      (s.irqTakeable = false ∧ exec .irqRx s = .next s) := by
  cases h : s.irqTakeable <;> simp [exec, execIrqRx, h]

/-! ### The agents' inner steps -/

/-- The producer's step with the write index in range: exit with nothing pending; otherwise the oldest byte
is taken, and stored or, in a full ring, lost. -/
theorem drainOrExit_cases {s : State} (hh : s.rbHead < s.cfg.N) :
    (s.rxq = [] ∧ drainOrExit s = .next (exitIsr s)) ∨
      ∃ b rest, s.rxq = b :: rest ∧
        ((s.ringFull = true ∧ drainOrExit s = .next { s with rxq := rest }) ∨
          (s.ringFull = false ∧
            drainOrExit s = .next { s with
              rxq := rest, rbMem := Memory.write s.rbMem s.rbHead b, rbHead := s.nextIndex s.rbHead })) := by
  cases hq : s.rxq with
  | nil => exact .inl ⟨rfl, by simp [drainOrExit, devReadData, hq]⟩
  | cons b rest =>
    refine .inr ⟨b, rest, rfl, ?_⟩
    rcases rbTryPush_cases b (s := { s with rxq := rest }) hh with ⟨hf, e⟩ | ⟨hf, e⟩
    · exact .inl ⟨hf, by simp [drainOrExit, devReadData, hq, e, Result.andThen_next]⟩
    · exact .inr ⟨hf, by simp [drainOrExit, devReadData, hq, e, Result.andThen_next, State.nextIndex]⟩

/-- READ_KEY's step with the read index in range: one more byte, or the response. -/
theorem readKeyStep_cases {s : State} (acc : List Byte) (ht : s.rbTail < s.cfg.N) :
    (s.continues acc = true ∧ s.ringEmpty = false ∧
        readKeyStep acc s = .next { s with
          rbTail := s.nextIndex s.rbTail, fg := .readKey (acc ++ [Memory.read s.rbMem s.rbTail]) }) ∨
      (s.continues acc = false ∧ readKeyStep acc s = .next (readKeyFinish acc s)) := by
  cases hc : s.continues acc
  · exact .inr ⟨rfl, by simp [readKeyStep, hc]⟩
  · have he : s.ringEmpty = false := by
      simp only [State.continues, Bool.and_eq_true] at hc
      simpa using hc.1.1
    rcases rbPop_cases ht with ⟨he', -⟩ | ⟨-, e⟩
    · rw [he] at he'; contradiction
    · exact .inl ⟨rfl, he, by simp [readKeyStep, hc, readKeyIterate, e, Result.andThen_next]⟩

theorem transmitStep_cases (q : List Byte) (v : KeyCode) (d : Bool) (s : State) :
    (q = [] ∧ transmitStep q v d s = respond v s) ∨
      (∃ b rest, q = b :: rest ∧ s.txBusy = true ∧ transmitStep q v d s = s) ∨
      (∃ b rest, q = b :: rest ∧ s.txBusy = false ∧
        transmitStep q v d s = { devWriteData b d s with fg := .tx rest v }) := by
  cases q with
  | nil => exact .inl ⟨rfl, rfl⟩
  | cons b rest =>
    cases hb : s.txBusy
    · exact .inr (.inr ⟨b, rest, rfl, rfl, by simp [transmitStep, transmitByte, State.devReadTxBusy, hb]⟩)
    · exact .inr (.inl ⟨b, rest, rfl, rfl, by simp [transmitStep, transmitByte, State.devReadTxBusy, hb]⟩)

/-! ### A step as its move -/

theorem step_admitted {s : State} (h : s.cfg.Admitted) : step s = runMove s.nextMove s.advance := by
  have h' : s.cfg.firstFailure = none := h
  simp only [step, admittedStep, h']

theorem nextMove_cons {s : State} {m : Move} {rest : List Move} (h : s.agenda = m :: rest) : s.nextMove = m := by
  simp [State.nextMove, h]

theorem blockStep_faulted {body : State → Result State} {s : State} {c : FaultCode} (h : s.fault = some c) :
    blockStep body s = .fault (.halted c) := by simp [blockStep, h]

theorem blockStep_running {body : State → Result State} {s : State} (h : s.fault = none) :
    blockStep body s = body s := by simp [blockStep, h]

/-- The interrupt agent's move in a block that has not faulted. -/
theorem runMove_interrupt {s : State} (h : s.fault = none) :
    runMove .interrupt s = if s.isrActive then drainOrExit s else exec .irqRx s := by
  simp [runMove, blockStep_running h, interruptEnabledStep, decode]

/-- The foreground agent's move in a block that has not faulted and is not interrupted. -/
theorem runMove_foreground {s : State} {d : Bool} (h : s.fault = none) (hi : s.isrActive = false) :
    runMove (.foreground d) s =
      match s.fg with
      | .idle =>
        match s.port with
        | some w => acceptWord w s
        | none => .next s
      | .readKey acc => readKeyStep acc s
      | .tx q v => .next (transmitStep q v d s)
      | .halted => .next s := by
  simp only [runMove, blockStep_running h, foregroundEnabledStep, hi]
  rfl

end Sys2Proof.Machine
end

