-- ==== Sys2Proof/Laws/PerInstr.lean ====
section
/-! SUPPORT. Family TableRow: the word an operation encodes to is one that the operation's own row of
spec/opcode_table.json matches; the event row has no word. -/

namespace Sys2Proof.Laws.TableRow

/-- The row of spec/opcode_table.json that an operation stands for. -/
def mnemonic : Instr → String
  | .init => "INIT"
  | .readKey => "READ_KEY"
  | .writeKey _ => "WRITE_KEY"
  | .tRbReset => "T_RB_RESET"
  | .tRbTryPush _ => "T_RB_TRY_PUSH"
  | .tRbIsEmpty => "T_RB_IS_EMPTY"
  | .tRbPop => "T_RB_POP"
  | .tTxByte _ => "T_TX_BYTE"
  | .irqRx => "IRQ_RX"

/-- Some row of the table has this mnemonic and matches the stimulus; the event has no row of words. -/
def matchesRow (name : String) : Stimulus → Prop
  | .command w => ∃ r ∈ opcodeRows, r.mnemonic = name ∧ w &&& r.mask = r.pattern
  | .interrupt => name = "IRQ_RX"

/-- The stimulus of `i` is a word matched by `i`'s own row, or, for the event, no word. -/
def Statement (i : Instr) : Prop := matchesRow (mnemonic i) (encode i)

/-- The matching row, given by its place in the table. -/
theorem matchesRow_of {name : String} {w : CmdWord} (r : OpcodeRow) (hr : r ∈ opcodeRows)
    (hn : r.mnemonic = name) (hw : w &&& r.mask = r.pattern) : matchesRow name (.command w) :=
  ⟨r, hr, hn, hw⟩

/-- A word with no operand is its row's pattern. -/
theorem whole_word (w : CmdWord) : w &&& 0xFFFFFFFFF#36 = w := by
  rw [show (0xFFFFFFFFF#36) = BitVec.allOnes 36 by decide, BitVec.and_allOnes]

/-- A code operand is outside its row's mask. -/
theorem code_word (op : BitVec 4) (code : KeyCode) : CmdWord.make op code &&& 0xF00000000#36 = op ++ (0#32) := by
  rw [show (0xF00000000#36) = (BitVec.allOnes 4) ++ (0#32) by decide, CmdWord.make, BitVec.and_append,
    BitVec.and_allOnes, BitVec.and_zero]

/-- A byte operand is outside its row's mask. -/
theorem byte_word (op : BitVec 4) (b : Byte) : CmdWord.make op (byteArg b) &&& 0xFFFFFFF00#36 = op ++ (0#32) := by
  have arg : byteArg b &&& 0xFFFFFF00#32 = 0#32 := by
    rw [show (0xFFFFFF00#32) = (BitVec.allOnes 24) ++ (0#8) by decide, byteArg, BitVec.and_append,
      BitVec.and_allOnes, BitVec.and_zero]
    decide
  rw [show (0xFFFFFFF00#36) = (BitVec.allOnes 4) ++ (0xFFFFFF00#32) by decide, CmdWord.make, BitVec.and_append,
    BitVec.and_allOnes, arg]

theorem init : Statement .init :=
  matchesRow_of ⟨"INIT", 0x100000000#36, 0xFFFFFFFFF#36⟩ (by decide) rfl (by rw [whole_word]; decide)

theorem readKey : Statement .readKey :=
  matchesRow_of ⟨"READ_KEY", 0x200000000#36, 0xFFFFFFFFF#36⟩ (by decide) rfl (by rw [whole_word]; decide)

theorem writeKey (code : KeyCode) : Statement (.writeKey code) :=
  matchesRow_of ⟨"WRITE_KEY", 0x300000000#36, 0xF00000000#36⟩ (by decide) rfl (by rw [code_word]; decide)

theorem tRbReset : Statement .tRbReset :=
  matchesRow_of ⟨"T_RB_RESET", 0x800000000#36, 0xFFFFFFFFF#36⟩ (by decide) rfl (by rw [whole_word]; decide)

theorem tRbTryPush (byte : Byte) : Statement (.tRbTryPush byte) :=
  matchesRow_of ⟨"T_RB_TRY_PUSH", 0x900000000#36, 0xFFFFFFF00#36⟩ (by decide) rfl (by rw [byte_word]; decide)

theorem tRbIsEmpty : Statement .tRbIsEmpty :=
  matchesRow_of ⟨"T_RB_IS_EMPTY", 0xA00000000#36, 0xFFFFFFFFF#36⟩ (by decide) rfl (by rw [whole_word]; decide)

theorem tRbPop : Statement .tRbPop :=
  matchesRow_of ⟨"T_RB_POP", 0xB00000000#36, 0xFFFFFFFFF#36⟩ (by decide) rfl (by rw [whole_word]; decide)

theorem tTxByte (byte : Byte) : Statement (.tTxByte byte) :=
  matchesRow_of ⟨"T_TX_BYTE", 0xC00000000#36, 0xFFFFFFF00#36⟩ (by decide) rfl (by rw [byte_word]; decide)

theorem irqRx : Statement .irqRx := rfl

end Sys2Proof.Laws.TableRow
end

