-- ==== Sys2Proof/Laws/Step.lean ====
section
/-! SUPPORT. Everything one move can do, said once: `CommandEffect` for a command that a ready block accepts,
`MoveEffect` for a move of any agent, with the inversion lemmas that later proofs split on. -/

namespace Sys2Proof.Machine

/-- Why a command is not carried out in a ready block: the first cause that holds. -/
def commandFault (s : State) : Instr → Option FaultCode
  | .init => if s.initDone then some .reinit else none
  | .readKey => if s.initDone then none else some .notInit
  | .writeKey _ => if s.initDone then none else some .notInit
  | .tRbReset => if s.irqArmed then some .spsc else none
  | .tRbTryPush _ => if s.irqArmed then some .spsc else if s.rbValid then none else some .notInit
  | .tRbIsEmpty => if s.rbValid then none else some .notInit
  | .tRbPop => if s.rbValid then if s.ringEmpty then some .popEmpty else none else some .notInit
  | .tTxByte _ => none
  | .irqRx => none

/-- What accepting a command can come to in a ready block: a recorded fault, or the command's first step. -/
inductive CommandEffect (s : State) : Instr → State → Prop where
  | raised (i : Instr) (c : FaultCode) (hc : commandFault s i = some c) :
      CommandEffect s i (raise c (clearRsp s))
  | init (h : s.initDone = false) :
      CommandEffect s .init (respond 0 (markInitDone (armProducer (devWriteIe (rbReset (clearRsp s))))))
  | readKey (h : s.initDone = true) : CommandEffect s .readKey { clearRsp s with fg := .readKey [] }
  | writeKey (code : KeyCode) (h : s.initDone = true) :
      CommandEffect s (.writeKey code) { clearRsp s with fg := .tx (encodeKey s.cfg.table code) 0 }
  | tTxByte (b : Byte) : CommandEffect s (.tTxByte b) { clearRsp s with fg := .tx [b] 0 }
  | tRbReset (h : s.irqArmed = false) : CommandEffect s .tRbReset (respond 0 (rbReset (clearRsp s)))
  | pushFull (b : Byte) (ha : s.irqArmed = false) (hv : s.rbValid = true) (hf : s.ringFull = true) :
      CommandEffect s (.tRbTryPush b) (respond 0 (clearRsp s))
  | pushStore (b : Byte) (ha : s.irqArmed = false) (hv : s.rbValid = true) (hf : s.ringFull = false)
      (hi : s.rbHead < s.cfg.N) :
      CommandEffect s (.tRbTryPush b) (respond 1 { clearRsp s with
        rbMem := Memory.write s.rbMem s.rbHead b, rbHead := s.nextIndex s.rbHead })
  | tRbIsEmpty (hv : s.rbValid = true) :
      CommandEffect s .tRbIsEmpty (respond (boolResponse s.ringEmpty) (clearRsp s))
  | tRbPop (hv : s.rbValid = true) (he : s.ringEmpty = false) (hi : s.rbTail < s.cfg.N) :
      CommandEffect s .tRbPop (respond (zext32 (Memory.read s.rbMem s.rbTail)) { clearRsp s with
        rbTail := s.nextIndex s.rbTail })

/-- A stored or refused push answers in the index range only. -/
theorem rbTryPush_inv {b : Byte} {s : State} {r : State × Bool} (h : rbTryPush b s = .next r) :
    (s.ringFull = true ∧ r = (s, false)) ∨
      (s.ringFull = false ∧ s.rbHead < s.cfg.N ∧
        r = ({ s with rbMem := Memory.write s.rbMem s.rbHead b, rbHead := s.nextIndex s.rbHead }, true)) := by
  by_cases hi : s.rbHead < s.cfg.N
  · rcases rbTryPush_cases b hi with ⟨hf, e⟩ | ⟨hf, e⟩ <;> rw [e] at h <;> injection h with h
    · exact .inl ⟨hf, h.symm⟩
    · exact .inr ⟨hf, hi, h.symm⟩
  · cases hf : s.ringFull
    · simp [rbTryPush, hf, memWrite, hi, Result.andThen] at h
    · simp only [rbTryPush, hf, if_true, Host.Outcome.next.injEq] at h
      exact .inl ⟨rfl, h.symm⟩

/-- A pop answers in the index range only. -/
theorem rbPop_inv {s : State} {r : State × Option Byte} (h : rbPop s = .next r) :
    (s.ringEmpty = true ∧ r = (raise .popEmpty s, none)) ∨
      (s.ringEmpty = false ∧ s.rbTail < s.cfg.N ∧
        r = ({ s with rbTail := s.nextIndex s.rbTail }, some (Memory.read s.rbMem s.rbTail))) := by
  by_cases hi : s.rbTail < s.cfg.N
  · rcases rbPop_cases hi with ⟨he, e⟩ | ⟨he, e⟩ <;> rw [e] at h <;> injection h with h
    · exact .inl ⟨he, h.symm⟩
    · exact .inr ⟨he, hi, h.symm⟩
  · cases he : s.ringEmpty
    · simp [rbPop, he, memRead, hi, Result.andThen] at h
    · simp only [rbPop, he, if_true, Host.Outcome.next.injEq] at h
      exact .inl ⟨rfl, h.symm⟩

theorem andThen_inv {α β : Type} {o : Result α} {f : α → Result β} {b : β} (h : Result.andThen o f = .next b) :
    ∃ a, o = .next a ∧ f a = .next b := by
  cases o with
  | next a => exact ⟨a, rfl, h⟩
  | fault r => simp [Result.andThen] at h
  | refused r => simp [Result.andThen] at h

/-- Inversion of an accepted command. -/
theorem exec_effect {i : Instr} {s t : State} (hr : s.cmdReady = true) (hi : i ≠ .irqRx)
    (h : exec i s = .next t) : CommandEffect s i t := by
  cases i with
  | init =>
    rw [execInit_ready hr] at h
    injection h with h; subst h
    cases hd : s.initDone
    · exact .init hd
    · exact .raised _ _ (by simp [commandFault, hd])
  | readKey =>
    rw [execReadKey_ready hr] at h
    injection h with h; subst h
    cases hd : s.initDone
    · exact .raised _ _ (by simp [commandFault, hd])
    · exact .readKey hd
  | writeKey code =>
    rw [execWriteKey_ready hr] at h
    injection h with h; subst h
    cases hd : s.initDone
    · exact .raised _ _ (by simp [commandFault, hd])
    · exact .writeKey code hd
  | tRbReset =>
    rw [execTRbReset_ready hr] at h
    injection h with h; subst h
    cases ha : s.irqArmed
    · exact .tRbReset ha
    · exact .raised _ _ (by simp [commandFault, ha])
  | tRbTryPush b =>
    rw [execTRbTryPush_ready hr] at h
    cases ha : s.irqArmed <;> cases hv : s.rbValid <;> simp only [ha, hv, if_true, Bool.false_eq_true, if_false] at h
    · injection h with h; subst h; exact .raised _ _ (by simp [commandFault, ha, hv])
    · obtain ⟨r, hp, h⟩ := andThen_inv h
      injection h with h; subst h
      rcases rbTryPush_inv hp with ⟨hf, rfl⟩ | ⟨hf, hi', rfl⟩
      · exact .pushFull b ha hv hf
      · exact .pushStore b ha hv hf hi'
    · injection h with h; subst h; exact .raised _ _ (by simp [commandFault, ha])
    · injection h with h; subst h; exact .raised _ _ (by simp [commandFault, ha])
  | tRbIsEmpty =>
    rw [execTRbIsEmpty_ready hr] at h
    injection h with h; subst h
    cases hv : s.rbValid
    · exact .raised _ _ (by simp [commandFault, hv])
    · exact .tRbIsEmpty hv
  | tRbPop =>
    simp only [exec, execTRbPop, accept_ready hr, clearRsp_rbValid] at h
    cases hv : s.rbValid <;> simp only [hv, Bool.not_false, Bool.not_true, if_true, Bool.false_eq_true, if_false] at h
    · injection h with h; subst h; exact .raised _ _ (by simp [commandFault, hv])
    · obtain ⟨r, hp, h⟩ := andThen_inv h
      rcases rbPop_inv hp with ⟨he, rfl⟩ | ⟨he, hi', rfl⟩ <;> injection h with h <;> subst h
      · exact .raised _ _ (by simpa [commandFault, hv] using he)
      · exact .tRbPop hv he hi'
  | tTxByte b =>
    rw [execTTxByte_ready hr] at h
    injection h with h; subst h
    exact .tTxByte b
  | irqRx => exact absurd rfl hi

/-- In a ready block with its indices in range, every operation answers a next state. -/
theorem exec_answers (i : Instr) {s : State} (hr : s.cmdReady = true) (hh : s.rbHead < s.cfg.N)
    (ht : s.rbTail < s.cfg.N) : ∃ t, exec i s = .next t := by
  cases i with
  | init => exact ⟨_, execInit_ready hr⟩
  | readKey => exact ⟨_, execReadKey_ready hr⟩
  | writeKey code => exact ⟨_, execWriteKey_ready hr code⟩
  | tRbReset => exact ⟨_, execTRbReset_ready hr⟩
  | tRbTryPush b =>
    rw [execTRbTryPush_ready hr]
    split
    · exact ⟨_, rfl⟩
    · split
      · rcases rbTryPush_cases b (s := clearRsp s) hh with ⟨-, e⟩ | ⟨-, e⟩ <;> rw [e] <;> exact ⟨_, rfl⟩
      · exact ⟨_, rfl⟩
  | tRbIsEmpty => exact ⟨_, execTRbIsEmpty_ready hr⟩
  | tRbPop =>
    rcases execTRbPop_cases hr ht with ⟨-, e⟩ | ⟨-, -, e⟩ | ⟨-, -, e⟩ <;> exact ⟨_, e⟩
  | tTxByte b => exact ⟨_, execTTxByte_ready hr b⟩
  | irqRx => rcases execIrqRx_cases s with ⟨-, e⟩ | ⟨-, e⟩ <;> exact ⟨_, e⟩

/-- What one move can come to, when it answers a next state. -/
inductive MoveEffect (s : State) : Move → State → Prop where
  | envRx (b : Byte) : MoveEffect s (.envRx b) (envReceive b s)
  | envTxBusy (busy : Bool) : MoveEffect s (.envTxBusy busy) (envSetBusy busy s)
  | caller (cmd : Option CmdWord) : MoveEffect s (.caller cmd) (callerDrive cmd s)
  /-- the foreground agent has no step enabled. -/
  | fgHold (d : Bool) (hf : s.fault = none)
      (h : s.isrActive = true ∨ (s.fg = .idle ∧ s.port = none) ∨ s.fg = .halted ∨
        (s.txBusy = true ∧ ∃ b rest v, s.fg = .tx (b :: rest) v)) : MoveEffect s (.foreground d) s
  | reserved (d : Bool) (w : CmdWord) (hr : s.cmdReady = true) (hp : s.port = some w)
      (hd : decode (.command w) = none) :
      MoveEffect s (.foreground d) (raise .illegalCmd (clearRsp (takeCommand s)))
  | command (d : Bool) (w : CmdWord) (i : Instr) (t : State) (hr : s.cmdReady = true) (hp : s.port = some w)
      (hd : decode (.command w) = some i) (he : CommandEffect (takeCommand s) i t) : MoveEffect s (.foreground d) t
  | iterate (d : Bool) (acc : List Byte) (hf : s.fault = none) (hi : s.isrActive = false)
      (hp : s.fg = .readKey acc) (hc : s.continues acc = true) (ht : s.rbTail < s.cfg.N) :
      MoveEffect s (.foreground d) { s with
        rbTail := s.nextIndex s.rbTail, fg := .readKey (acc ++ [Memory.read s.rbMem s.rbTail]) }
  | finish (d : Bool) (acc : List Byte) (hf : s.fault = none) (hi : s.isrActive = false)
      (hp : s.fg = .readKey acc) (hc : s.continues acc = false) :
      MoveEffect s (.foreground d) (respond (sessionResponse s.cfg.table acc) s)
  | txWrite (d : Bool) (b : Byte) (rest : List Byte) (v : KeyCode) (hf : s.fault = none) (hi : s.isrActive = false)
      (hp : s.fg = .tx (b :: rest) v) (hb : s.txBusy = false) :
      MoveEffect s (.foreground d) { devWriteData b d s with fg := .tx rest v }
  | txDone (d : Bool) (v : KeyCode) (hf : s.fault = none) (hi : s.isrActive = false) (hp : s.fg = .tx [] v) :
      MoveEffect s (.foreground d) (respond v s)
  /-- the interrupt agent has no step enabled. -/
  | irqHold (hf : s.fault = none) (hi : s.isrActive = false) (h : s.irqPending = false) :
      MoveEffect s .interrupt s
  | enter (ht : s.irqTakeable = true) : MoveEffect s .interrupt (enterIsr s)
  | drainFull (b : Byte) (rest : List Byte) (hf : s.fault = none) (hi : s.isrActive = true)
      (hq : s.rxq = b :: rest) (hfull : s.ringFull = true) : MoveEffect s .interrupt { s with rxq := rest }
  | drainStore (b : Byte) (rest : List Byte) (hf : s.fault = none) (hi : s.isrActive = true)
      (hq : s.rxq = b :: rest) (hfull : s.ringFull = false) (hh : s.rbHead < s.cfg.N) :
      MoveEffect s .interrupt { s with
        rxq := rest, rbMem := Memory.write s.rbMem s.rbHead b, rbHead := s.nextIndex s.rbHead }
  | exit (hf : s.fault = none) (hi : s.isrActive = true) (hq : s.rxq = []) : MoveEffect s .interrupt (exitIsr s)

theorem decodeWord_ne_irqRx {w : CmdWord} {i : Instr} (h : decode (.command w) = some i) : i ≠ .irqRx := by
  rintro rfl
  simp only [decode, decodeWord, noOperand, byteOperand] at h
  repeat' split at h
  all_goals simp at h

theorem foreground_effect {d : Bool} {s t : State} (hf : s.fault = none) (hi : s.isrActive = false)
    (h : runMove (.foreground d) s = .next t) : MoveEffect s (.foreground d) t := by
  rw [runMove_foreground hf hi] at h
  cases hp : s.fg with
  | idle =>
    have hr : s.cmdReady = true := cmdReady_iff.2 ⟨hp, hi, hf⟩
    rw [hp] at h
    cases hw : s.port with
    | none =>
      simp only [hw, Host.Outcome.next.injEq] at h
      exact h ▸ .fgHold d hf (.inr (.inl ⟨hp, hw⟩))
    | some w =>
      simp only [hw, acceptWord] at h
      cases hd : decode (.command w) with
      | none =>
        have hr' : (takeCommand s).cmdReady = true := hr
        simp only [hd, acceptReserved, accept_ready hr', Host.Outcome.next.injEq] at h
        exact h ▸ .reserved d w hr hw hd
      | some i =>
        simp only [hd] at h
        exact .command d w i t hr hw hd (exec_effect (s := takeCommand s) hr (decodeWord_ne_irqRx hd) h)
  | readKey acc =>
    simp only [hp, readKeyStep] at h
    cases hc : s.continues acc <;> simp only [hc, if_true, Bool.false_eq_true, if_false] at h
    · injection h with h
      exact h ▸ .finish d acc hf hi hp hc
    · obtain ⟨r, hr, h⟩ := andThen_inv h
      have he : s.ringEmpty = false := by
        simp only [State.continues, Bool.and_eq_true] at hc
        simpa using hc.1.1
      rcases rbPop_inv hr with ⟨he', -⟩ | ⟨-, ht, rfl⟩
      · rw [he] at he'; contradiction
      · injection h with h
        exact h ▸ .iterate d acc hf hi hp hc ht
  | tx q v =>
    simp only [hp, Host.Outcome.next.injEq] at h
    rcases transmitStep_cases q v d s with ⟨rfl, e⟩ | ⟨b, rest, rfl, hb, e⟩ | ⟨b, rest, rfl, hb, e⟩ <;> rw [e] at h
    · exact h ▸ .txDone d v hf hi hp
    · exact h ▸ .fgHold d hf (.inr (.inr (.inr ⟨hb, b, rest, v, hp⟩)))
    · exact h ▸ .txWrite d b rest v hf hi hp hb
  | halted =>
    simp only [hp, Host.Outcome.next.injEq] at h
    exact h ▸ .fgHold d hf (.inr (.inr (.inl hp)))

theorem interrupt_effect {s t : State} (hf : s.fault = none) (h : runMove .interrupt s = .next t) :
    MoveEffect s .interrupt t := by
  rw [runMove_interrupt hf] at h
  cases hi : s.isrActive <;> simp only [hi, if_true, Bool.false_eq_true, if_false] at h
  · rcases execIrqRx_cases s with ⟨ht, e⟩ | ⟨ht, e⟩ <;> rw [e] at h <;> injection h with h
    · exact h ▸ .enter ht
    · refine h ▸ .irqHold hf hi ?_
      simpa [State.irqTakeable, hf, hi] using ht
  · cases hq : s.rxq with
    | nil =>
      simp only [drainOrExit, devReadData, hq, Host.Outcome.next.injEq] at h
      exact h ▸ .exit hf hi hq
    | cons b rest =>
      simp only [drainOrExit, devReadData, hq] at h
      obtain ⟨r, hr, h⟩ := andThen_inv h
      injection h with h
      subst h
      rcases rbTryPush_inv hr with ⟨hfull, rfl⟩ | ⟨hfull, hh, rfl⟩
      · exact .drainFull b rest hf hi hq hfull
      · exact .drainStore b rest hf hi hq hfull hh

/-- Inversion of one move. -/
theorem runMove_effect {m : Move} {s t : State} (h : runMove m s = .next t) : MoveEffect s m t := by
  cases m with
  | envRx b => injection h with h; exact h ▸ .envRx b
  | envTxBusy busy => injection h with h; exact h ▸ .envTxBusy busy
  | caller cmd => injection h with h; exact h ▸ .caller cmd
  | foreground d =>
    cases hf : s.fault with
    | some c => simp [runMove, blockStep_faulted hf] at h
    | none =>
      cases hi : s.isrActive
      · exact foreground_effect hf hi h
      · simp [runMove, blockStep_running hf, foregroundEnabledStep, hi] at h
        exact h ▸ .fgHold d hf (.inl hi)
  | interrupt =>
    cases hf : s.fault with
    | some c => simp [runMove, blockStep_faulted hf] at h
    | none => exact interrupt_effect hf h

/-- Inversion of one step: the configuration is admitted, and the step is its move. -/
theorem step_effect {s t : State} (h : step s = .next t) :
    s.cfg.Admitted ∧ MoveEffect s.advance s.nextMove t := by
  cases ha : s.cfg.firstFailure with
  | some k => simp [step, admittedStep, ha] at h
  | none =>
    rw [step_admitted (s := s) ha] at h
    exact ⟨ha, runMove_effect h⟩

end Sys2Proof.Machine
end

