-- ==== Sys2Proof/Laws/Run.lean ====
section
/-! SUPPORT. What the record of a run comes to, said once: its inversion at the first move, its last state, and
the word and the response of each kind of move. -/

namespace Sys2Proof.Machine

@[simp] theorem RunRecord.before_accepted (m : Move) (s t : State) (r : RunRecord) :
    (r.before m s t).accepted = (acceptedWord m s).toList ++ r.accepted := rfl

@[simp] theorem RunRecord.before_responses (m : Move) (s t : State) (r : RunRecord) :
    (r.before m s t).responses = (completedResponse m s t).toList ++ r.responses := rfl

@[simp] theorem RunRecord.before_final (m : Move) (s t : State) (r : RunRecord) :
    (r.before m s t).final = r.final := rfl

theorem runRecord_nil (s : State) : runRecord [] s = .next { accepted := [], responses := [], final := s } := rfl

/-- Inversion of a record at its first move. -/
theorem runRecord_cons {m : Move} {ms : List Move} {s : State} {r : RunRecord} (h : runRecord (m :: ms) s = .next r) :
    ∃ t r', runMove m s = .next t ∧ runRecord ms t = .next r' ∧ r = r'.before m s t := by
  obtain ⟨t, ht, h⟩ := andThen_inv h
  obtain ⟨r', hr, h⟩ := andThen_inv h
  injection h with h
  exact ⟨t, r', ht, hr, h.symm⟩

/-- A record's last state is where the run's moves lead. -/
theorem runRecord_final {ms : List Move} : ∀ {s : State} {r : RunRecord}, runRecord ms s = .next r →
    runMoves ms s = .next r.final := by
  induction ms with
  | nil => intro s r h; injection h with h; subst h; rfl
  | cons m ms ih =>
    intro s r h
    obtain ⟨t, r', ht, hr, rfl⟩ := runRecord_cons h
    simpa [runMoves, ht, Result.andThen] using ih hr

/-- A move accepts a word only when the block is ready. -/
theorem acceptedWord_of_not_ready {s : State} (m : Move) (h : s.cmdReady = false) : acceptedWord m s = none := by
  cases m <;> simp [acceptedWord, h]

/-- A foreground move of a ready block accepts the word on the port. -/
theorem acceptedWord_of_ready {s : State} (d : Bool) (h : s.cmdReady = true) :
    acceptedWord (.foreground d) s = s.port := by
  simp [acceptedWord, h]

/-- A move that accepts nothing and leaves the foreground phase completes nothing. -/
theorem completedResponse_of_same_phase {m : Move} {s t : State} (ha : acceptedWord m s = none) (h : t.fg = s.fg) :
    completedResponse m s t = none := by
  simp [completedResponse, ha, h]

/-- A move that leaves a command in progress, or a fault, completes nothing. -/
theorem completedResponse_of_not_idle {m : Move} {s t : State} (h : t.fg ≠ .idle) :
    completedResponse m s t = none := by
  simp [completedResponse, h]

/-- R76: a move that ends in `respond`, of a command in progress or just accepted, completes with its value. -/
theorem completedResponse_of_respond {m : Move} {s u : State} {v : BitVec 32}
    (h : s.fg ≠ .idle ∨ (acceptedWord m s).isSome = true) :
    completedResponse m s (respond v u) = some v := by
  rcases h with h | h <;> simp [completedResponse, respond, h]

end Sys2Proof.Machine
end

