-- ==== Sys2Proof/Laws/Table.lean ====
section
/-! SUPPORT. What an admitted configuration gives, and the table lookups in terms of the table's entries. -/

namespace Sys2Proof

/-- An admitted configuration passes every named check. -/
theorem Config.Admitted.passes {c : Config} (h : c.Admitted) (k : ConfigCheck) : c.passes k = true := by
  have hk : k ∈ ConfigCheck.order := by cases k <;> decide
  have := List.find?_eq_none.1 h k hk
  simpa using this

theorem Config.Admitted.capacity {c : Config} (h : c.Admitted) : 0 < c.N := by
  have : 1 ≤ c.N := by simpa [Config.passes] using h.passes .nAtLeastOne
  omega

theorem Config.Admitted.maxSeqLen {c : Config} (h : c.Admitted) : 1 ≤ c.maxSeqLen := by
  simpa [Config.passes] using h.passes .maxSeqLenAtLeastOne

theorem Config.Admitted.seq_nonempty {c : Config} (h : c.Admitted) {e : SequenceEntry} (he : e ∈ c.table) :
    1 ≤ e.seq.length := by
  have := h.passes .wfNonempty
  simp only [Config.passes, List.all_eq_true, decide_eq_true_eq] at this
  exact this e he

theorem Config.Admitted.seq_length {c : Config} (h : c.Admitted) {e : SequenceEntry} (he : e ∈ c.table) :
    e.seq.length ≤ c.maxSeqLen := by
  have := h.passes .wfMaxLen
  simp only [Config.passes, List.all_eq_true, decide_eq_true_eq] at this
  exact this e he

theorem Config.Admitted.code_nonzero {c : Config} (h : c.Admitted) {e : SequenceEntry} (he : e ∈ c.table) :
    e.code ≠ 0 := by
  have := h.passes .wfCodeNonzero
  simp only [Config.passes, List.all_eq_true, decide_eq_true_eq] at this
  exact this e he

theorem Config.Admitted.seq_unique {c : Config} (h : c.Admitted) :
    c.table.Pairwise fun e f => e.seq ≠ f.seq := by simpa [Config.passes] using h.passes .wfSeqUnique

theorem Config.Admitted.code_unique {c : Config} (h : c.Admitted) :
    c.table.Pairwise fun e f => e.code ≠ f.code := by simpa [Config.passes] using h.passes .wfCodeUnique

/-- R9: `IW` bits hold every ring index. -/
theorem Config.index_fits (c : Config) {i : Nat} (h : i < c.N) : i < 2 ^ c.indexWidth :=
  Nat.lt_of_lt_of_le h (Nat.le_trans (Nat.le_pow_clog (by decide) c.N)
    (Nat.pow_le_pow_right (by decide) (Nat.le_max_right 1 _)))

namespace Machine

theorem isStrictPrefixOf_iff {c : List Byte} {e : SequenceEntry} :
    isStrictPrefixOf c e = true ↔ c.length < e.seq.length ∧ e.seq.take c.length = c := by
  simp [isStrictPrefixOf]

theorem strictPrefixAny_iff {table : List SequenceEntry} {c : List Byte} :
    strictPrefixAny table c = true ↔ ∃ e ∈ table, c.length < e.seq.length ∧ e.seq.take c.length = c := by
  simp [strictPrefixAny, isStrictPrefixOf_iff]

/-- A lookup answers an entry of the table whose sequence is the candidate, or there is none. -/
theorem exactCode_cases (table : List SequenceEntry) (c : List Byte) :
    (∃ e ∈ table, e.seq = c ∧ exactCode table c = e.code) ∨
      ((∀ e ∈ table, e.seq ≠ c) ∧ exactCode table c = 0) := by
  unfold exactCode
  cases h : table.find? (fun e => decide (e.seq = c)) with
  | none => exact .inr ⟨fun e he => by simpa using List.find?_eq_none.1 h e he, rfl⟩
  | some e => exact .inl ⟨e, List.mem_of_find?_eq_some h, by simpa using List.find?_some h, rfl⟩

/-- A code lookup answers an entry's sequence, or there is no entry with the code. -/
theorem codeLookup_cases (table : List SequenceEntry) (k : KeyCode) :
    (∃ e ∈ table, e.code = k ∧ codeLookup table k = some e.seq) ∨
      ((∀ e ∈ table, e.code ≠ k) ∧ codeLookup table k = none) := by
  unfold codeLookup
  cases h : table.find? (fun e => decide (e.code = k)) with
  | none => exact .inr ⟨fun e he => by simpa using List.find?_eq_none.1 h e he, rfl⟩
  | some e => exact .inl ⟨e, List.mem_of_find?_eq_some h, by simpa using List.find?_some h, rfl⟩

end Machine

end Sys2Proof
end

