-- ==== Sys2Proof/Machine/Device.lean ====
section
/-! DEFINITION. Where each access of the Register Interface goes (R13, R39, R55): the parameters `P_DEV_MAP`
and `P_RXPEND_SRC` placed against the five device primitives. No rule of behaviour depends on it. -/

namespace Sys2Proof.Machine

/-- R13: the five accesses the block makes. The interrupt-clear register has none (R39). -/
inductive DevicePrimitive where
  | readData
  | writeData
  | readTxBusy
  | readRxPend
  | writeIe
  deriving DecidableEq, Repr

/-- R55: the register, and the bit where one is meant, that an access reaches. -/
def DevicePrimitive.site (c : Config) : DevicePrimitive → Site
  | .readData => { offset := c.devMap.data, bit := none }
  | .writeData => { offset := c.devMap.data, bit := none }
  | .readTxBusy => { offset := c.devMap.flags, bit := some c.devMap.txBusyBit }
  | .readRxPend => c.rxPendSrc
  | .writeIe => { offset := c.devMap.intEnable, bit := none }

/-- R13: the value the access writes: a byte to the data register, `P_IE_VALUE` to the interrupt-enable
register, nothing for a read. -/
def DevicePrimitive.written (c : Config) (b : Byte) : DevicePrimitive → Option Nat
  | .writeData => some b.toNat
  | .writeIe => some c.ieValue
  | .readData => none
  | .readTxBusy => none
  | .readRxPend => none

end Sys2Proof.Machine
end

