-- ==== Sys2Proof/Machine/Lines.lean ====
section
/-! DEFINITION. The line syntax of R82, as data: how a command is spelled, and the moves a line stands for at
its place in a schedule. Nothing in `step` depends on it. -/

namespace Sys2Proof.Machine

/-- R82: the spelling of a command, its operand in decimal; `irq` is the event's line. -/
def spelling : Instr → String
  | .init => "init"
  | .readKey => "read_key"
  | .writeKey code => "write_key " ++ Nat.repr code.toNat
  | .tRbReset => "t_rb_reset"
  | .tRbTryPush b => "t_rb_push " ++ Nat.repr b.toNat
  | .tRbIsEmpty => "t_rb_empty"
  | .tRbPop => "t_rb_pop"
  | .tTxByte b => "t_tx " ++ Nat.repr b.toNat
  | .irqRx => "irq"

/-- R82: a line of a program. -/
inductive Line where
  /-- a command, or `irq`. -/
  | op (i : Instr)
  /-- `env_rx b0, b1, ...`. -/
  | envRx (bytes : List Byte)
  /-- `env_tx_ready`. -/
  | envTxReady
  deriving DecidableEq, Repr

/-- R82: the moves that the line begins with in state `s`. A command is presented and accepted (the steps
that complete it come after, in whatever interleaving); `irq` is the producer from entry, through a drain
step for every byte pending, to exit; the environment's lines are its own moves. -/
def Line.moves (s : State) : Line → List Move
  | .op i =>
    match encode i with
    | .command w => [.caller (some w), .foreground false]
    | .interrupt => List.replicate (1 + s.rxq.length + 1) .interrupt
  | .envRx bytes => bytes.map .envRx
  | .envTxReady => [.envTxBusy false]

end Sys2Proof.Machine
end

