-- ==== Sys2Proof/Tests/Slice0.lean ====
section
/-! SUPPORT. Small tests. Expected results are those of spec/95_test_vectors.md (the vector is named) or of a
rule's own example (the rule is named). The witnesses of the statements stand in
Sys2Proof/Tests/Witnesses.lean. -/

namespace Sys2Proof.Tests

open Sys2Proof.Machine

/-! ### Fixtures -/

/-- The fixture table TT. -/
def tt : List SequenceEntry :=
  [⟨[0x1B#8, 0x5B#8, 0x41#8], 200#32⟩, ⟨[0x1B#8, 0x5B#8, 0x42#8], 201#32⟩, ⟨[0x1B#8, 0x4F#8, 0x50#8], 256#32⟩,
    ⟨[0x1B#8, 0x5B#8, 0x33#8, 0x7E#8], 257#32⟩]

/-- The fixture table TP, one sequence a proper start of the other. -/
def tp : List SequenceEntry := [⟨[0x1B#8], 300#32⟩, ⟨[0x1B#8, 0x5B#8, 0x41#8], 200#32⟩]

def cfgOf (n : Nat) (table : List SequenceEntry) : Config := { Config.atReset with N := n, table := table }

/-- Power-on with the fixture configuration. -/
def powerOn (n : Nat) : State := { State.reset with cfg := cfgOf n tt }

/-- The ring holds these (non-zero) bytes from slot 0, before INIT but after a ring reset. -/
def harness (n : Nat) (bytes : List Byte) : State :=
  { powerOn n with rbMem := bytes.zipIdx.map fun c => (c.2, c.1), rbHead := bytes.length, rbValid := true }

/-- The same after INIT. -/
def running (n : Nat) (bytes : List Byte) : State :=
  { harness n bytes with initDone := true, irqArmed := true, rxIrqEn := true }

/-- The coming steps take these moves. -/
def moving (ms : List Move) (s : State) : State := { s with agenda := ms }

def fgMove : List Move := [.foreground false]

/-- The next state of an outcome. -/
def after (o : Result State) : Option State :=
  match o with
  | .next s => some s
  | .fault _ => none
  | .refused _ => none

/-- One field of the next state. -/
def seen {α : Type} (f : State → α) (o : Result State) : Option α := (after o).map f

/-- What a run shows. -/
def seenShown (ms : List Move) (s : State) : Option Shown :=
  match runRecord ms s with
  | .next r => some r.shown
  | .fault _ => none
  | .refused _ => none

/-! ### WellFormed: each check refuses an ill-formed configuration (CFG-01 to CFG-08) -/

theorem test_cfg_refuses_zero_capacity : (cfgOf 0 tt).firstFailure = some .nAtLeastOne := by decide

theorem test_cfg_refuses_zero_max_seq_len :
    ({ cfgOf 8 [] with maxSeqLen := 0 } : Config).firstFailure = some .maxSeqLenAtLeastOne := by decide

theorem test_cfg_refuses_empty_sequence : (cfgOf 8 [⟨[], 5#32⟩]).firstFailure = some .wfNonempty := by decide

theorem test_cfg_refuses_long_sequence :
    (cfgOf 8 [⟨[0x1B#8, 0x5B#8, 0x31#8, 0x35#8, 0x7E#8], 300#32⟩]).firstFailure = some .wfMaxLen := by decide

theorem test_cfg_refuses_equal_sequences :
    (cfgOf 8 [⟨[0x1B#8, 0x5B#8, 0x41#8], 200#32⟩, ⟨[0x1B#8, 0x5B#8, 0x41#8], 201#32⟩]).firstFailure =
      some .wfSeqUnique := by decide

theorem test_cfg_refuses_equal_codes :
    (cfgOf 8 [⟨[0x1B#8, 0x5B#8, 0x41#8], 200#32⟩, ⟨[0x1B#8, 0x5B#8, 0x42#8], 200#32⟩]).firstFailure =
      some .wfCodeUnique := by decide

theorem test_cfg_refuses_zero_code : (cfgOf 8 [⟨[0x1B#8], 0#32⟩]).firstFailure = some .wfCodeNonzero := by decide

theorem test_cfg_refuses_code_in_byte_range :
    ({ cfgOf 8 tt with codesAboveByte := true } : Config).firstFailure = some .wfCodeAboveByte := by decide

theorem test_cfg_admits : (cfgOf 8 tt).Admitted ∧ (cfgOf 8 tp).Admitted ∧ (cfgOf 1 []).Admitted := by decide

theorem test_step_refuses_bad_config :
    step { State.reset with cfg := cfgOf 0 tt } = .refused (.badConfig .nAtLeastOne) := rfl

/-! ### Decoding: words written out from R71 and R72 (ENC-01 to ENC-15) -/

theorem test_decode_init : decodeWord 0x100000000#36 = some .init ∧ decodeWord 0x180000000#36 = none := by decide

theorem test_decode_readKey : decodeWord 0x200000000#36 = some .readKey := by decide

theorem test_decode_writeKey :
    decodeWord 0x3FFFFFFFF#36 = some (.writeKey 0xFFFFFFFF#32) ∧ decodeWord 0x300000000#36 = some (.writeKey 0#32) := by
  decide

theorem test_decode_tRbReset : decodeWord 0x800000000#36 = some .tRbReset := by decide

theorem test_decode_tRbTryPush :
    decodeWord 0x9000000FF#36 = some (.tRbTryPush 0xFF#8) ∧ decodeWord 0x900000100#36 = none := by decide

theorem test_decode_tRbIsEmpty : decodeWord 0xA00000000#36 = some .tRbIsEmpty := by decide

theorem test_decode_tRbPop : decodeWord 0xB00000000#36 = some .tRbPop ∧ decodeWord 0xB00000001#36 = none := by decide

theorem test_decode_tTxByte :
    decodeWord 0xC0000000D#36 = some (.tTxByte 0x0D#8) ∧ decodeWord 0xC00000100#36 = none := by decide

theorem test_decode_reserved_ops :
    [0x000000000#36, 0x400000000#36, 0x500000000#36, 0x600000000#36, 0x700000000#36, 0xD00000000#36, 0xE00000000#36,
      0xF00000000#36].all (fun w => decodeWord w == none) = true := by decide

theorem test_decode_event : decode .interrupt = some .irqRx := by decide

/-! ### The operations, one step each -/

/-- IN-01. -/
theorem test_init_sets_the_marks :
    seen (fun t => (t.rbHead, t.rbTail, t.rspData)) (exec .init { powerOn 8 with rbHead := 3, rbTail := 1, rspData := 9 }) =
        some (0, 0, 0#32) ∧
      seen (fun t => [t.rbValid, t.initDone, t.irqArmed, t.rxIrqEn, t.rspValid]) (exec .init (powerOn 8)) =
        some [true, true, true, true, true] := by decide

/-- IN-02. -/
theorem test_init_twice_faults :
    seen (fun t => (t.fault, t.fg, t.rspValid)) (exec .init { running 8 [] with rspValid := true }) =
      some (some .reinit, .halted, false) := by decide

/-- R144. -/
theorem test_readKey_opens_a_session :
    seen (fun t => (t.fg, t.rspValid)) (exec .readKey { running 8 [0x61#8] with rspValid := true }) =
      some (.readKey [], false) := by decide

/-- RK-19. -/
theorem test_readKey_before_init_faults :
    seen (fun t => (t.fault, t.fg)) (exec .readKey (powerOn 8)) = some (some .notInit, .halted) := by decide

/-- WK-01. -/
theorem test_writeKey_queues_the_sequence :
    seen (fun t => t.fg) (exec (.writeKey 200#32) (running 8 [])) =
      some (.tx [0x1B#8, 0x5B#8, 0x41#8] 0#32) := by decide

/-- WK-05. -/
theorem test_writeKey_takes_the_low_byte :
    seen (fun t => t.fg) (exec (.writeKey 0x1234#32) (running 8 [])) = some (.tx [0x34#8] 0#32) := by decide

/-- RB-01, from indices in the middle of the ring. -/
theorem test_tRbReset_before_init :
    seen (fun t => (t.rbHead, t.rbTail, t.rbValid, t.initDone, t.rspData)) (exec .tRbReset { powerOn 4 with rbHead := 2 }) =
      some (0, 0, true, false, 0#32) := by decide

/-- RB-16. -/
theorem test_tRbReset_after_init_faults :
    seen (fun t => t.fault) (exec .tRbReset (running 4 [])) = some (some .spsc) := by decide

/-- RB-07: the push wraps the head. -/
theorem test_tRbTryPush_wraps :
    seen (fun t => (t.rbHead, Memory.read t.rbMem 3, t.rspData))
      (exec (.tRbTryPush 0x44#8) { harness 4 [0x11#8, 0x22#8, 0x33#8] with rbTail := 1 }) =
      some (0, 0x44#8, 1#32) := by decide

/-- RB-04: a full ring. -/
theorem test_tRbTryPush_full :
    seen (fun t => (t.rbHead, t.rbMem, t.rspData)) (exec (.tRbTryPush 0x44#8) (harness 4 [0x11#8, 0x22#8, 0x33#8])) =
      some (3, [(0, 0x11#8), (1, 0x22#8), (2, 0x33#8)], 0#32) := by decide

/-- RB-02 and RB-05. -/
theorem test_tRbIsEmpty_both_ways :
    seen (fun t => t.rspData) (exec .tRbIsEmpty (harness 4 [])) = some 1#32 ∧
      seen (fun t => t.rspData) (exec .tRbIsEmpty (harness 4 [0x11#8])) = some 0#32 := by decide

/-- RB-13. -/
theorem test_tRbIsEmpty_before_reset_faults :
    seen (fun t => t.fault) (exec .tRbIsEmpty (powerOn 4)) = some (some .notInit) := by decide

/-- RB-09, its last pop: the tail wraps. -/
theorem test_tRbPop_wraps :
    seen (fun t => (t.rbTail, t.rspData, t.ringEmpty))
      (exec .tRbPop { harness 4 [0x11#8, 0x22#8, 0x33#8, 0x44#8] with rbTail := 3, rbHead := 0 }) =
      some (0, 0x44#32, true) := by decide

/-- RB-10. -/
theorem test_tRbPop_empty_faults :
    seen (fun t => (t.fault, t.fg, t.rspValid)) (exec .tRbPop (harness 4 [])) =
      some (some .popEmpty, .halted, false) := by decide

/-- WK-12, before INIT: no table lookup. -/
theorem test_tTxByte_is_raw :
    seen (fun t => (t.fg, t.fault)) (exec (.tTxByte 0xC8#8) (powerOn 8)) = some (.tx [0xC8#8] 0#32, none) := by decide

/-- R121's example, in the middle of a READ_KEY (IRQ-06). -/
theorem test_irqRx_enters :
    seen (fun t => (t.isrActive, t.fg)) (exec .irqRx { running 4 [0x1B#8] with rxq := [0x61#8], fg := .readKey [] }) =
      some (true, .readKey []) := by decide

/-- IRQ-02 and IRQ-03: nothing pending, and not armed. -/
theorem test_irqRx_holds :
    seen (fun t => t.isrActive) (exec .irqRx (running 4 [])) = some false ∧
      seen (fun t => t.isrActive) (exec .irqRx { powerOn 4 with rxq := [0x41#8] }) = some false := by decide

/-! ### The agents' inner steps -/

/-- R122's example: a full ring loses the byte. -/
theorem test_drain_loses_when_full :
    seen (fun t => (t.rxq, t.contents, t.isrActive))
      (step (moving [.interrupt]
        { running 4 [0x41#8, 0x42#8, 0x43#8] with isrActive := true, rxq := [0x44#8] })) =
      some ([], [0x41#8, 0x42#8, 0x43#8], true) := by decide

/-- IRQ-04's first drain. -/
theorem test_drain_stores :
    seen (fun t => (t.rxq, t.contents))
      (step (moving [.interrupt] { running 4 [] with isrActive := true, rxq := [0x41#8, 0x42#8] })) =
      some ([0x42#8], [0x41#8]) := by decide

/-- R123's example. -/
theorem test_interrupt_exits :
    seen (fun t => t.isrActive) (step (moving [.interrupt] { running 4 [] with isrActive := true })) = some false := by
  decide

/-- R145's example. -/
theorem test_readKey_iterates :
    seen (fun t => (t.fg, t.contents))
      (step (moving fgMove { running 8 [0x5B#8, 0x41#8] with fg := .readKey [0x1B#8] })) =
      some (.readKey [0x1B#8, 0x5B#8], [0x41#8]) := by decide

/-- RK-09's finish: the match stops the loop with a byte left in the ring. -/
theorem test_readKey_finishes_on_a_match :
    seen (fun t => (t.rspValid, t.rspData, t.contents))
      (step (moving fgMove { running 8 [0x61#8] with fg := .readKey [0x1B#8, 0x5B#8, 0x41#8] })) =
      some (true, 200#32, [0x61#8]) := by decide

/-- RK-06's finish: the sequence stalls. -/
theorem test_readKey_finishes_on_a_stall :
    seen (fun t => (t.rspData, t.fg)) (step (moving fgMove { running 8 [] with fg := .readKey [0x1B#8, 0x5B#8] })) =
      some (0x5B#32, .idle) := by decide

/-- P3, line 5a: the device draws busy after the write. -/
theorem test_transmit_writes_and_draws :
    seen (fun t => (t.txLog, t.txBusy, t.fg))
      (step (moving [.foreground true] { running 8 [] with fg := .tx [0x1B#8, 0x5B#8] 0 })) =
      some ([0x1B#8], true, .tx [0x5B#8] 0) := by decide

/-- P3, line 5b: a poll of the set flag holds. -/
theorem test_transmit_holds_while_busy :
    seen (fun t => (t.txLog, t.fg)) (step (moving fgMove { running 8 [] with fg := .tx [0x5B#8] 0, txBusy := true })) =
      some ([], .tx [0x5B#8] 0) := by decide

/-- R173's example. -/
theorem test_transmit_completes :
    seen (fun t => (t.rspValid, t.fg)) (step (moving fgMove { running 8 [] with fg := .tx [] 0 })) =
      some (true, .idle) := by decide

/-- RB-18: an illegal word is refused before the SPSC check. -/
theorem test_reserved_word_faults :
    seen (fun t => (t.fault, t.fg, t.port)) (step (moving fgMove { running 4 [] with port := some 0x900000141#36 })) =
      some (some .illegalCmd, .halted, none) := by decide

/-- P7, line 2: a faulted block accepts nothing. -/
theorem test_faulted_block_stops :
    step (moving fgMove { powerOn 8 with fault := some .notInit, fg := .halted, port := some 0x100000000#36 }) =
      .fault (.halted .notInit) := rfl

/-- RB-19: the count wraps. -/
theorem test_count_wraps : ({ powerOn 4 with rbHead := 1, rbTail := 2 } : State).ringCount = 3 := by decide

/-- RK-16: the shortest match. -/
theorem test_shortest_match :
    decodeSession tp [] [0x1B#8, 0x5B#8, 0x41#8] = ([0x1B#8], [0x5B#8, 0x41#8]) ∧
      sessionResponse tp [0x1B#8] = 300#32 := by decide

/-- R242, with R106 and R107's own examples: one response for each of the two commands accepted. -/
theorem test_run_shows_its_responses :
    seenShown [.caller (some 0x800000000#36), .foreground false, .caller (some 0x900000011#36), .foreground false]
      (powerOn 4) = some { responses := [0, 1], txLog := [] } := by decide

/-- R83's word, placed after reset, runs. -/
theorem test_placed_word_runs :
    decodeTableWord 40 0x100000000 = some .init ∧
      seen (fun t => t.initDone) (step (State.reset.withFetchWord 40 0x100000000)) = some true := by decide

/-- R82's table, and its `irq` line on one pending byte. -/
theorem test_lines :
    spelling (.writeKey 200#32) = "write_key 200" ∧
      Line.moves (powerOn 8) (.op (.tRbTryPush 0x41#8)) = [.caller (some 0x900000041#36), .foreground false] ∧
      Line.moves { powerOn 8 with rxq := [0x61#8] } (.op .irqRx) = [.interrupt, .interrupt, .interrupt] := by decide

/-- R39: only the pending-receive sample may leave the four registers, and none reaches interrupt-clear. -/
theorem test_device_sites :
    let map : DeviceMap := ⟨1, 2, 3, 4, 5, 6, 7⟩
    let c : Config := { cfgOf 8 tt with devMap := map, rxPendSrc := ⟨9, some 7⟩ }
    [DevicePrimitive.readData, .writeData, .readTxBusy, .readRxPend, .writeIe].map (fun p => (p.site c).offset) =
      [1, 1, 2, 9, 3] := by decide

end Sys2Proof.Tests
end

