-- ==== Sys2Proof/Tests/Witnesses.lean ====
section
/-! SUPPORT. For each statement with hypotheses, concrete states and operands that meet them, one witness for
each clause. -/

namespace Sys2Proof.Tests

open Sys2Proof.Machine

/-- The block in a foreground phase, after INIT. -/
def phased (n : Nat) (bytes : List Byte) (p : Phase) : State := { running n bytes with fg := p }

/-- A faulted block. -/
def faulted (c : FaultCode) : State := { powerOn 8 with fault := some c, fg := .halted }

/-- READ_KEY on the port. -/
def readKeyPort (s : State) : State := { s with port := some 0x200000000#36 }

theorem witness_PowerOnMeetsTheInvariant :
    (powerOn 1).cfg.Admitted ∧ (powerOn 1).PowerOn ∧ (powerOn 4).PowerOn := by
  refine ⟨by decide, ?_, ?_⟩ <;> constructor <;> decide

theorem witness_EveryStepKeepsTheInvariant :
    ∃ s t : State, s.Inv ∧ step s = .next t ∧ t.contents ≠ s.contents :=
  ⟨moving fgMove (phased 8 [0x1B#8] (.readKey [])), _, by constructor <;> decide, rfl, by decide⟩

theorem witness_StepFromTheInvariantAnswers :
    (moving fgMove (running 1 [])).Inv ∧ (moving [.interrupt] (faulted .popEmpty)).Inv := by
  constructor <;> constructor <;> decide

theorem witness_CommandsThatStartWithoutFaultAtPowerOn : (powerOn 1).PowerOn ∧ Instr.tRbPop ≠ .irqRx := by
  refine ⟨?_, by decide⟩
  constructor <;> decide

theorem witness_EncodingIsTheOnlyWord :
    decode (.command 0x9000000FF#36) = some (.tRbTryPush 0xFF#8) ∧ decode .interrupt = some .irqRx := by decide

theorem witness_ReservedWordsRaiseIllegalCmd :
    ∃ s : State, s.cfg.Admitted ∧ s.cmdReady = true ∧ s.nextMove = .foreground false ∧
      s.port = some 0xC00000100#36 ∧ decode (.command 0xC00000100#36) = none :=
  ⟨moving fgMove { powerOn 8 with port := some 0xC00000100#36 }, by decide, by decide, by decide, by decide, by decide⟩

theorem witness_StepRunsTheDecodedOperation :
    (∃ s : State, s.cfg.Admitted ∧ s.cmdReady = true ∧ s.nextMove = .foreground false ∧
      s.port = some 0x3FFFFFFFF#36 ∧ decode (.command 0x3FFFFFFFF#36) = some (.writeKey 0xFFFFFFFF#32)) ∧
    ∃ s : State, s.cfg.Admitted ∧ s.fault = none ∧ s.isrActive = false ∧ s.nextMove = .interrupt :=
  ⟨⟨moving fgMove { powerOn 8 with port := some 0x3FFFFFFFF#36 }, by decide, by decide, by decide, by decide, by decide⟩,
    ⟨moving [.interrupt] (running 8 []), by decide, by decide, by decide, by decide⟩⟩

theorem witness_PlacedTableWordRunsNext :
    (running 8 []).cfg.Admitted ∧ (running 8 []).cmdReady = true ∧
      decodeTableWord 40 0xC000000FF = some (.tTxByte 0xFF#8) ∧ decodeTableWord 0 0 = some .irqRx := by decide

theorem witness_CommandWaitsUntilReady :
    (phased 8 [] (.tx [] 0)).cmdReady = false ∧
    (∃ s : State, s.Inv ∧ s.nextMove = .foreground false ∧ s.port = some 0x200000000#36 ∧ s.fault = none ∧
      s.cmdReady = true) ∧
    ∃ s : State, s.Inv ∧ s.nextMove = .foreground false ∧ s.port = some 0x200000000#36 ∧ s.fault = none ∧
      s.cmdReady = false :=
  ⟨by decide,
    ⟨moving fgMove (readKeyPort (running 8 [])), by constructor <;> decide, by decide, by decide, by decide, by decide⟩,
    ⟨moving fgMove (readKeyPort (phased 8 [] (.tx [] 0))), by constructor <;> decide, by decide, by decide, by decide,
      by decide⟩⟩

theorem witness_ConfigurationRefusedByFirstFailingCheck :
    (cfgOf 0 [⟨[], 0#32⟩]).passes .nAtLeastOne = false ∧ (cfgOf 0 [⟨[], 0#32⟩]).passes .wfCodeNonzero = false := by
  decide

theorem witness_FaultedBlockNeverStepsAgain :
    (∃ s : State, s.cfg.Admitted ∧ s.fault = some .spsc ∧ s.nextMove = .foreground true) ∧
    (∃ s : State, s.cfg.Admitted ∧ s.fault = some .reinit ∧ s.nextMove = .interrupt) ∧
    ∃ s t : State, s.cfg.Admitted ∧ s.fault = some .notInit ∧ step s = .next t :=
  ⟨⟨moving [.foreground true] (faulted .spsc), by decide, by decide, by decide⟩,
    ⟨moving [.interrupt] (faulted .reinit), by decide, by decide, by decide⟩,
    ⟨moving [.envRx 0x41#8] (faulted .notInit), _, by decide, by decide, rfl⟩⟩

theorem witness_AgentWithoutEnabledStepHolds :
    (∃ s : State, s.cfg.Admitted ∧ s.fault = none ∧ s.nextMove = .foreground false ∧ s.fgEnabled = false) ∧
    ∃ s : State, s.cfg.Admitted ∧ s.fault = none ∧ s.nextMove = .interrupt ∧ s.irqEnabled = false :=
  ⟨⟨moving fgMove { phased 8 [] (.tx [0x41#8] 0) with txBusy := true }, by decide, by decide, by decide, by decide⟩,
    ⟨moving [.interrupt] (running 8 []), by decide, by decide, by decide, by decide⟩⟩

theorem witness_EnvironmentMoves :
    (moving [.envRx 0xFF#8] (faulted .spsc)).cfg.Admitted ∧
      (moving [.envRx 0xFF#8] (faulted .spsc)).nextMove = .envRx 0xFF#8 ∧
      (moving [.envTxBusy true] (running 1 [])).nextMove = .envTxBusy true ∧
      (moving [.caller none] (readKeyPort (running 1 []))).nextMove = .caller none := by decide

theorem witness_InitResult :
    CmdWord.op 0x1FFFFFFFF#36 = 0x1#4 ∧ (powerOn 8).cmdReady = true ∧ (powerOn 8).initDone = false ∧
      (running 8 []).cmdReady = true ∧ (running 8 []).initDone = true := by decide

theorem witness_RingResetCommandResult :
    CmdWord.op 0x800000000#36 = 0x8#4 ∧ (powerOn 8).cmdReady = true ∧ (powerOn 8).irqArmed = false ∧
      (running 8 []).cmdReady = true ∧ (running 8 []).irqArmed = true := by decide

theorem witness_TryPushCommandResult :
    CmdWord.op 0x9000000FF#36 = 0x9#4 ∧
    (∃ s : State, s.cmdReady = true ∧ s.rbHead < s.cfg.N ∧ s.irqArmed = true) ∧
    (∃ s : State, s.cmdReady = true ∧ s.rbHead < s.cfg.N ∧ s.irqArmed = false ∧ s.rbValid = false) ∧
    (∃ s : State, s.cmdReady = true ∧ s.rbHead < s.cfg.N ∧ s.irqArmed = false ∧ s.rbValid = true ∧
      (s.rbHead + 1) % s.cfg.N = s.rbTail) ∧
    ∃ s : State, s.cmdReady = true ∧ s.rbHead + 1 = s.cfg.N ∧ s.irqArmed = false ∧ s.rbValid = true ∧
      (s.rbHead + 1) % s.cfg.N ≠ s.rbTail :=
  ⟨by decide, ⟨running 4 [], by decide, by decide, by decide⟩, ⟨powerOn 4, by decide, by decide, by decide, by decide⟩,
    ⟨harness 1 [], by decide, by decide, by decide, by decide, by decide⟩,
    ⟨{ harness 4 [0x11#8, 0x22#8, 0x33#8] with rbTail := 1 }, by decide, by decide, by decide, by decide, by decide⟩⟩

theorem witness_IsEmptyCommandResult :
    CmdWord.op 0xA00000001#36 = 0xA#4 ∧ (harness 1 []).cmdReady = true ∧ (harness 1 []).rbValid = true ∧
      (powerOn 1).cmdReady = true ∧ (powerOn 1).rbValid = false := by decide

theorem witness_PopCommandResult :
    CmdWord.op 0xB00000000#36 = 0xB#4 ∧
    (∃ s : State, s.cmdReady = true ∧ s.rbTail < s.cfg.N ∧ s.rbValid = false) ∧
    (∃ s : State, s.cmdReady = true ∧ s.rbTail < s.cfg.N ∧ s.rbValid = true ∧ s.rbHead = s.rbTail) ∧
    ∃ s : State, s.cmdReady = true ∧ s.rbTail + 1 = s.cfg.N ∧ s.rbValid = true ∧ s.rbHead ≠ s.rbTail :=
  ⟨by decide, ⟨powerOn 4, by decide, by decide, by decide⟩, ⟨harness 4 [], by decide, by decide, by decide, by decide⟩,
    ⟨{ running 4 [0x11#8] with rbTail := 3 }, by decide, by decide, by decide, by decide⟩⟩

theorem witness_IndexOutsideTheRingStops :
    (∃ s : State, s.cmdReady = true ∧ s.rbValid = true ∧ s.irqArmed = false ∧ s.cfg.N = s.rbHead ∧
      (s.rbHead + 1) % s.cfg.N ≠ s.rbTail) ∧
    ∃ s : State, s.cmdReady = true ∧ s.rbValid = true ∧ s.cfg.N = s.rbTail ∧ s.rbHead ≠ s.rbTail :=
  ⟨⟨{ harness 4 [] with rbHead := 4 }, by decide, by decide, by decide, by decide, by decide⟩,
    ⟨{ harness 4 [] with rbTail := 4 }, by decide, by decide, by decide, by decide⟩⟩

theorem witness_ReadKeyAccepted :
    CmdWord.op 0x200000001#36 = 0x2#4 ∧ (running 8 []).cmdReady = true ∧ (running 8 []).initDone = true ∧
      (powerOn 8).cmdReady = true ∧ (powerOn 8).initDone = false := by decide

theorem witness_WriteKeyAccepted :
    CmdWord.op 0x3FFFFFFFF#36 = 0x3#4 ∧ (running 8 []).cmdReady = true ∧ (running 8 []).initDone = true ∧
      (powerOn 8).cmdReady = true ∧ (powerOn 8).initDone = false := by decide

theorem witness_TxByteAccepted : CmdWord.op 0xC000000FF#36 = 0xC#4 ∧ (powerOn 8).cmdReady = true := by decide

theorem witness_InterruptEntryResult :
    (∃ s : State, s.rxq ≠ [] ∧ s.rxIrqEn = true ∧ s.irqArmed = true ∧ s.isrActive = false ∧ s.fault = none ∧ s.Inv) ∧
    ∃ s : State, ¬(s.rxq ≠ [] ∧ s.rxIrqEn = true ∧ s.irqArmed = true ∧ s.isrActive = false ∧ s.fault = none) :=
  ⟨⟨{ phased 8 [] (.tx [0x41#8] 0) with rxq := [0x61#8], txBusy := true }, by decide, by decide, by decide, by decide,
      by decide, by constructor <;> decide⟩,
    ⟨running 8 [], by decide⟩⟩

theorem witness_ProducerStepResult :
    (∃ s : State, s.cfg.Admitted ∧ s.rbHead < s.cfg.N ∧ s.fault = none ∧ s.isrActive = true ∧
      s.nextMove = .interrupt ∧ s.rxq = [0x44#8] ∧ (s.rbHead + 1) % s.cfg.N = s.rbTail) ∧
    (∃ s : State, s.cfg.Admitted ∧ s.rbHead + 1 = s.cfg.N ∧ s.fault = none ∧ s.isrActive = true ∧
      s.nextMove = .interrupt ∧ s.rxq = [0x44#8] ∧ (s.rbHead + 1) % s.cfg.N ≠ s.rbTail) ∧
    ∃ s : State, s.cfg.Admitted ∧ s.rbHead < s.cfg.N ∧ s.fault = none ∧ s.isrActive = true ∧
      s.nextMove = .interrupt ∧ s.rxq = [] :=
  ⟨⟨moving [.interrupt] { running 4 [0x41#8, 0x42#8, 0x43#8] with isrActive := true, rxq := [0x44#8] },
      by decide, by decide, by decide, by decide, by decide, by decide, by decide⟩,
    ⟨moving [.interrupt] { running 4 [0x41#8, 0x42#8, 0x43#8] with isrActive := true, rxq := [0x44#8], rbTail := 1 },
      by decide, by decide, by decide, by decide, by decide, by decide, by decide⟩,
    ⟨moving [.interrupt] { running 4 [] with isrActive := true }, by decide, by decide, by decide, by decide,
      by decide, by decide⟩⟩

theorem witness_ReadKeyStepResult :
    (∃ s : State, s.cfg.Admitted ∧ s.rbTail < s.cfg.N ∧ s.fault = none ∧ s.isrActive = false ∧
      s.nextMove = .foreground false ∧ s.fg = .readKey [] ∧ s.continues [] = true) ∧
    (∃ s : State, s.cfg.Admitted ∧ s.rbTail < s.cfg.N ∧ s.fault = none ∧ s.isrActive = false ∧
      s.nextMove = .foreground false ∧ s.fg = .readKey [] ∧ s.continues [] = false) ∧
    ∃ s : State, s.cfg.Admitted ∧ s.rbTail < s.cfg.N ∧ s.fault = none ∧ s.isrActive = false ∧
      s.nextMove = .foreground false ∧ s.fg = .readKey [0x1B#8, 0x5B#8, 0x33#8, 0x7E#8] ∧
      s.continues [0x1B#8, 0x5B#8, 0x33#8, 0x7E#8] = false ∧
      exactCode s.cfg.table [0x1B#8, 0x5B#8, 0x33#8, 0x7E#8] ≠ 0 :=
  ⟨⟨moving fgMove (phased 8 [0x61#8] (.readKey [])), by decide, by decide, by decide, by decide, by decide, by decide,
      by decide⟩,
    ⟨moving fgMove (phased 1 [] (.readKey [])), by decide, by decide, by decide, by decide, by decide, by decide,
      by decide⟩,
    ⟨moving fgMove (phased 8 [] (.readKey [0x1B#8, 0x5B#8, 0x33#8, 0x7E#8])), by decide, by decide, by decide,
      by decide, by decide, by decide, by decide, by decide⟩⟩

theorem witness_TransmitStepResult :
    (∃ s : State, s.cfg.Admitted ∧ s.fault = none ∧ s.isrActive = false ∧ s.nextMove = .foreground true ∧
      s.fg = .tx [0x41#8] 0 ∧ s.txBusy = true) ∧
    (∃ s : State, s.cfg.Admitted ∧ s.fault = none ∧ s.isrActive = false ∧ s.nextMove = .foreground true ∧
      s.fg = .tx [0x41#8] 0 ∧ s.txBusy = false) ∧
    ∃ s : State, s.cfg.Admitted ∧ s.fault = none ∧ s.isrActive = false ∧ s.nextMove = .foreground true ∧
      s.fg = .tx [] 0 :=
  ⟨⟨moving [.foreground true] { phased 8 [] (.tx [0x41#8] 0) with txBusy := true }, by decide, by decide, by decide,
      by decide, by decide, by decide⟩,
    ⟨moving [.foreground true] (phased 8 [] (.tx [0x41#8] 0)), by decide, by decide, by decide, by decide, by decide,
      by decide⟩,
    ⟨moving [.foreground true] (phased 8 [] (.tx [] 0)), by decide, by decide, by decide, by decide, by decide⟩⟩

theorem witness_OperationFrame :
    ∃ t : State, Memory.wf (harness 4 [0x11#8]).rbMem ∧ exec (.tRbTryPush 0x22#8) (harness 4 [0x11#8]) = .next t ∧
      t.rbMem ≠ (harness 4 [0x11#8]).rbMem := ⟨_, by decide, rfl, by decide⟩

theorem witness_FaultOfEachOperation :
    (harness 1 []).cmdReady = true ∧ (harness 1 []).rbHead < (harness 1 []).cfg.N ∧
      (harness 1 []).rbTail < (harness 1 []).cfg.N := by decide

theorem witness_RingCountLaws :
    (∃ s : State, s.rbHead < s.cfg.N ∧ s.rbTail < s.cfg.N ∧ s.rbHead < s.rbTail) ∧
      ∃ s : State, s.rbHead < s.cfg.N ∧ s.rbTail < s.cfg.N ∧ s.cfg.N = 1 :=
  ⟨⟨{ powerOn 4 with rbHead := 1, rbTail := 2 }, by decide, by decide, by decide⟩,
    ⟨powerOn 1, by decide, by decide, by decide⟩⟩

theorem witness_PushAppendsAndPopTakesTheOldest :
    (∃ s : State, s.Inv ∧ s.cmdReady = true ∧ s.rbValid = true ∧ s.irqArmed = false ∧
      s.contents.length < s.cfg.N - 1) ∧
    (∃ s : State, s.Inv ∧ s.cmdReady = true ∧ s.rbValid = true ∧ s.irqArmed = false ∧
      s.contents.length = s.cfg.N - 1) ∧
    ∃ s : State, s.Inv ∧ s.cmdReady = true ∧ s.rbValid = true ∧ s.contents = [0x11#8, 0x22#8, 0x33#8] :=
  ⟨⟨harness 4 [0x11#8, 0x22#8], by constructor <;> decide, by decide, by decide, by decide, by decide⟩,
    ⟨harness 1 [], by constructor <;> decide, by decide, by decide, by decide, by decide⟩,
    ⟨running 4 [0x11#8, 0x22#8, 0x33#8], by constructor <;> decide, by decide, by decide, by decide⟩⟩

theorem witness_CapacityAndRecovery :
    (∃ s : State, s.Inv ∧ s.cmdReady = true ∧ s.irqArmed = false ∧ s.rbValid = true ∧ s.contents = [] ∧
      [0x11#8, 0x22#8, 0x33#8].length = s.cfg.N - 1) ∧
    ∃ s : State, s.Inv ∧ s.cmdReady = true ∧ s.irqArmed = false ∧ s.rbValid = true ∧ s.contents = [] ∧
      [0x11#8].length = s.cfg.N - 1 :=
  ⟨⟨{ harness 4 [] with rbHead := 3, rbTail := 3 }, by constructor <;> decide, by decide, by decide, by decide,
      by decide, by decide⟩,
    ⟨harness 2 [], by constructor <;> decide, by decide, by decide, by decide, by decide, by decide⟩⟩

/-- A drain, the exit, and one READ_KEY iteration: one byte pushed, one popped. -/
theorem witness_RingIsFifoOverEveryRun :
    ∃ s t : State, s.Inv ∧ ByteFlow s [0x62#8] [0x61#8] t :=
  ⟨moving [.interrupt, .interrupt, .foreground false]
      { phased 4 [0x61#8] (.readKey []) with isrActive := true, rxq := [0x62#8] },
    _, by constructor <;> decide, .more rfl (by decide) (.more rfl (by decide) (.more rfl (by decide) (.done _)))⟩

theorem witness_OnlyTheOwnerWritesEachElement :
    ∃ s t : State, s.Inv ∧ step s = .next t ∧ t.rbHead ≠ s.rbHead ∧ t.rxq ≠ s.rxq ∧ t.rbMem ≠ s.rbMem :=
  ⟨moving [.interrupt] { running 4 [] with isrActive := true, rxq := [0x44#8] }, _, by constructor <;> decide, rfl,
    by decide, by decide, by decide⟩

theorem witness_InitMarksAreNeverCleared :
    (∃ s t : State, step s = .next t ∧ s.initDone = false ∧ t.initDone = true) ∧
    ∃ s t : State, step s = .next t ∧ s.initDone = true ∧ s.irqArmed = true ∧ s.rxIrqEn = true ∧ s.rbValid = true :=
  ⟨⟨moving fgMove { powerOn 8 with port := some 0x100000000#36 }, _, rfl, by decide, by decide⟩,
    ⟨moving fgMove { running 8 [] with port := some 0x100000000#36 }, _, rfl, by decide, by decide, by decide,
      by decide⟩⟩

theorem witness_ProducerTouchesOnlyItsOwn :
    ∃ s t : State, Memory.wf s.rbMem ∧ s.nextMove = .interrupt ∧ step s = .next t ∧ t.rbHead ≠ s.rbHead :=
  ⟨moving [.interrupt] { running 4 [] with isrActive := true, rxq := [0x44#8] }, _, by decide, by decide, rfl,
    by decide⟩

theorem witness_WholeInterrupt :
    ∃ s : State, s.Inv ∧ s.irqTakeable = true ∧ s.rxq.length = 5 ∧ s.contents.length = 1 :=
  ⟨{ running 4 [0x40#8] with rxq := [0x41#8, 0x42#8, 0x43#8, 0x44#8, 0x45#8] }, by constructor <;> decide, by decide,
    by decide, by decide⟩

/-- The running handler with nothing pending, the state after it, and moves that end it. -/
def lastInterrupt (k : Nat) : State := match k with
  | 0 => { running 4 [] with isrActive := true }
  | _ + 1 => running 4 []

def exitThenIdle (k : Nat) : Move := match k with
  | 0 => .interrupt
  | _ + 1 => .envTxBusy false

theorem witness_EveryInterruptEnds :
    IsRun exitThenIdle lastInterrupt ∧ EnvRxFinite exitThenIdle lastInterrupt ∧ IrqFair exitThenIdle lastInterrupt ∧
      (lastInterrupt 0).fault = none ∧ (lastInterrupt 0).isrActive = true := by
  refine ⟨⟨by decide, fun k => ?_⟩, fun _ _ => ⟨0, fun j _ b => ?_⟩, fun k h => ?_, by decide, by decide⟩
  · cases k <;> rfl
  · cases j <;> simp [exitThenIdle]
  · have idle : (running 4 []).irqEnabled = false := by decide
    have busy : (running 4 []).irqEnabled = true := h (k + 1) (by omega)
    rw [idle] at busy
    contradiction

/-- A requested interrupt, its handler entered, and moves that take it. -/
def firstInterrupt (k : Nat) : State := match k with
  | 0 => { running 4 [] with rxq := [0x41#8] }
  | _ + 1 => { running 4 [] with rxq := [0x41#8], isrActive := true }

theorem witness_RequestedInterruptIsTaken :
    IsRun exitThenIdle firstInterrupt ∧ EnvIrqFair firstInterrupt ∧ (firstInterrupt 0).irqPending = true := by
  refine ⟨⟨by decide, fun k => ?_⟩, fun k => ⟨k + 1, by omega, by simp [firstInterrupt]⟩, by decide⟩
  cases k <;> rfl

theorem witness_TableLookups : (cfgOf 8 tt).Admitted ∧ (cfgOf 8 tt).table ≠ [] ∧ (cfgOf 8 []).Admitted := by decide

theorem witness_EncodedKeyBytes :
    (cfgOf 8 tt).Admitted ∧ (cfgOf 8 tt).table ≠ [] ∧ (∀ e ∈ (cfgOf 8 tt).table, e.code ≠ 0x1234#32) ∧
      (cfgOf 8 []).Admitted := by decide

theorem witness_StrictAndPlainTestsGiveTheSameLoop :
    (running 8 [0x41#8]).cfg.Admitted ∧ (running 8 [0x41#8]).continues [0x1B#8, 0x5B#8] = true := by decide

theorem witness_SessionOutcomes :
    (∃ s : State, s.Inv ∧ s.fault = none ∧ s.isrActive = false ∧ s.nextMove = .foreground false ∧
      s.fg = .readKey [] ∧ s.continues [] = false) ∧
    (∃ s : State, s.Inv ∧ s.fault = none ∧ s.isrActive = false ∧ s.nextMove = .foreground false ∧
      s.fg = .readKey [0x1B#8, 0x5B#8, 0x33#8, 0x7E#8] ∧ s.continues [0x1B#8, 0x5B#8, 0x33#8, 0x7E#8] = false) ∧
    (∃ s : State, s.Inv ∧ s.fault = none ∧ s.isrActive = false ∧ s.nextMove = .foreground false ∧
      s.fg = .readKey [0x1B#8, 0x78#8] ∧ s.continues [0x1B#8, 0x78#8] = false) ∧
    ∃ s : State, s.Inv ∧ s.fault = none ∧ s.isrActive = false ∧ s.nextMove = .foreground false ∧
      s.fg = .readKey [0x1B#8, 0x5B#8] ∧ s.continues [0x1B#8, 0x5B#8] = false :=
  ⟨⟨moving fgMove (phased 8 [] (.readKey [])), by constructor <;> decide, by decide, by decide, by decide, by decide,
      by decide⟩,
    ⟨moving fgMove (phased 8 [0x61#8] (.readKey [0x1B#8, 0x5B#8, 0x33#8, 0x7E#8])), by constructor <;> decide,
      by decide, by decide, by decide, by decide, by decide⟩,
    ⟨moving fgMove (phased 8 [0x61#8] (.readKey [0x1B#8, 0x78#8])), by constructor <;> decide, by decide, by decide,
      by decide, by decide, by decide⟩,
    ⟨moving fgMove (phased 8 [] (.readKey [0x1B#8, 0x5B#8])), by constructor <;> decide, by decide, by decide,
      by decide, by decide, by decide⟩⟩

theorem witness_SessionGrowsWithinItsBoundOrEnds :
    ∃ s t : State, s.Inv ∧ s.fg = .readKey [0x1B#8, 0x5B#8, 0x33#8] ∧ step s = .next t ∧ s.isrActive = false ∧
      s.nextMove = .foreground false :=
  ⟨moving fgMove (phased 8 [0x7E#8] (.readKey [0x1B#8, 0x5B#8, 0x33#8])), _, by constructor <;> decide, by decide, rfl,
    by decide, by decide⟩

/-- RK-11: a sequence of `MAX_SEQ_LEN` bytes. -/
theorem witness_WholeReadKey :
    ∃ (s : State) (draws : List Bool), s.Inv ∧ s.cmdReady = true ∧ s.initDone = true ∧
      s.port = some 0x200000000#36 ∧ draws.length = (decodeSession s.cfg.table [] s.contents).1.length + 2 ∧
      (decodeSession s.cfg.table [] s.contents).1.length = s.cfg.maxSeqLen :=
  ⟨readKeyPort (running 8 [0x1B#8, 0x5B#8, 0x33#8, 0x7E#8]), List.replicate 6 true, by constructor <;> decide, by decide,
    by decide, by decide, by decide, by decide⟩

theorem witness_EmptyPollRespondsZero :
    ∃ s : State, s.Inv ∧ s.cmdReady = true ∧ s.initDone = true ∧ s.port = some 0x200000000#36 ∧ s.ringEmpty = true :=
  ⟨readKeyPort { running 8 [] with rbHead := 5, rbTail := 5 }, by constructor <;> decide, by decide, by decide,
    by decide, by decide⟩

theorem witness_ShortestMatchWins :
    (cfgOf 8 tp).Admitted ∧
      (∃ e₁ ∈ (cfgOf 8 tp).table, ∃ e₂ ∈ (cfgOf 8 tp).table,
        e₁.seq.length < e₂.seq.length ∧ e₂.seq.take e₁.seq.length = e₁.seq) ∧
      ∃ e ∈ (cfgOf 8 tp).table, noShorterEntry (cfgOf 8 tp).table e.seq = true := by decide

theorem witness_StalledSequenceAnswersItsLastByte :
    ∃ (s : State) (draws : List Bool), s.Inv ∧ s.cmdReady = true ∧ s.initDone = true ∧
      s.port = some 0x200000000#36 ∧ s.contents = [0x1B#8] ++ [0x5B#8] ∧
      strictPrefixAny s.cfg.table ([0x1B#8] ++ [0x5B#8]) = true ∧
      noShorterEntry s.cfg.table ([0x1B#8] ++ [0x5B#8]) = true ∧
      exactCode s.cfg.table ([0x1B#8] ++ [0x5B#8]) = 0 ∧ draws.length = [0x1B#8].length + 3 :=
  ⟨readKeyPort (running 8 [0x1B#8, 0x5B#8]), List.replicate 4 false, by constructor <;> decide, by decide, by decide,
    by decide, by decide, by decide, by decide, by decide, by decide⟩

theorem witness_LiteralFallbackForOneByte :
    ∃ s : State, s.Inv ∧ s.cmdReady = true ∧ s.initDone = true ∧ s.port = some 0x200000000#36 ∧
      s.contents = [0x61#8, 0x62#8] ∧ ∀ e ∈ s.cfg.table, e.seq.head? ≠ some 0x61#8 :=
  ⟨readKeyPort (running 8 [0x61#8, 0x62#8]), by constructor <;> decide, by decide, by decide, by decide, by decide,
    by decide⟩

theorem witness_WholeWriteKey :
    ∃ s : State, s.Inv ∧ s.cmdReady = true ∧ s.initDone = true ∧ s.txBusy = false ∧ s.port = some (0x3#4 ++ 257#32) ∧
      (encodeKey s.cfg.table 257#32).length = 4 :=
  ⟨{ running 8 [] with port := some 0x300000101#36 }, by constructor <;> decide, by decide, by decide, by decide,
    by decide, by decide⟩

theorem witness_StuckTransmitterHangsTheForeground :
    ∃ s : State, s.Inv ∧ s.fg = .tx [0x1B#8] 0 ∧ s.txBusy = true ∧
      Move.envTxBusy false ∉ [.foreground false, .envRx 0x41#8, .interrupt, .interrupt, .interrupt, .envTxBusy true] :=
  ⟨{ phased 4 [] (.tx [0x1B#8] 0) with txBusy := true }, by constructor <;> decide, by decide, by decide, by decide⟩

theorem witness_DataRegisterWrittenOnlyWhenClear :
    ∃ s t : State, step s = .next t ∧ t.txLog ≠ s.txLog :=
  ⟨moving fgMove (phased 8 [] (.tx [0x41#8] 0)), _, rfl, by decide⟩

theorem witness_TransmitPathFrame :
    ∃ s t : State, s.nextMove = .foreground true ∧ s.fg = .tx [0x41#8] 0 ∧ step s = .next t ∧ t.txBusy = true :=
  ⟨moving [.foreground true] (phased 8 [] (.tx [0x41#8] 0)), _, by decide, by decide, rfl, by decide⟩

/-- An entry whose sequence exactly fills the ring. -/
theorem witness_EncodeDecodeRoundTrip :
    ∃ (s : State) (e : SequenceEntry), s.Inv ∧ s.cmdReady = true ∧ s.initDone = true ∧ s.txBusy = false ∧ s.rxq = [] ∧
      s.ringEmpty = true ∧ e ∈ s.cfg.table ∧ noShorterEntry s.cfg.table e.seq = true ∧ e.seq.length = s.cfg.N - 1 :=
  ⟨running 5 [], ⟨[0x1B#8, 0x5B#8, 0x33#8, 0x7E#8], 257#32⟩, by constructor <;> decide, by decide, by decide, by decide,
    by decide, by decide, by decide, by decide, by decide⟩

theorem witness_BlockedStatesAndHangs_states :
    (∃ s : State, s.Inv ∧ s.fgEnabled = false ∧ s.irqEnabled = false ∧ s.fg = .idle) ∧
    (∃ s : State, s.Inv ∧ s.fgEnabled = false ∧ s.irqEnabled = false ∧ s.fault = some .spsc) ∧
    ∃ s : State, s.Inv ∧ s.fgEnabled = false ∧ s.irqEnabled = false ∧ s.polling = true :=
  ⟨⟨running 8 [], by constructor <;> decide, by decide, by decide, by decide⟩,
    ⟨faulted .spsc, by constructor <;> decide, by decide, by decide, by decide⟩,
    ⟨{ phased 8 [] (.tx [0x41#8] 0) with txBusy := true }, by constructor <;> decide, by decide, by decide, by decide⟩⟩

/-- A block that polls a busy flag for good, its handler running at first, and moves that take it there. -/
def stuckPoll (k : Nat) : State := match k with
  | 0 => { phased 8 [] (.tx [0x41#8] 0) with txBusy := true, isrActive := true }
  | _ + 1 => { phased 8 [] (.tx [0x41#8] 0) with txBusy := true }

def exitThenPoll (k : Nat) : Move := match k with
  | 0 => .interrupt
  | _ + 1 => .foreground false

theorem witness_BlockedStatesAndHangs_run :
    IsRun exitThenPoll stuckPoll ∧ (stuckPoll 0).Inv ∧ (stuckPoll 0).fault = none ∧ (stuckPoll 0).fg = .tx [0x41#8] 0 ∧
      (∀ j, (stuckPoll j).txBusy = true) ∧ IsHang stuckPoll 0 := by
  refine ⟨⟨by decide, fun k => ?_⟩, ?_, by decide, by decide, fun j => ?_, fun j _ => ⟨fun q => ?_, fun f => ?_⟩,
    .foreground, fun j _ => ?_⟩
  · cases k <;> rfl
  · constructor <;> decide
  · cases j <;> rfl
  · cases j <;> exact nomatch (show Phase.tx [0x41#8] 0 = .idle from q.idle)
  · cases j <;> exact f rfl
  · cases j <;> rfl

/-- An Idle block with a word on the port whose handler never moves, frozen for good. -/
def frozenIdle (_ : Nat) : State := { readKeyPort (running 8 []) with isrActive := true }

theorem witness_BlockedStatesAndHangs_frozen :
    IsRun (fun _ => .foreground false) frozenIdle ∧ (frozenIdle 0).Inv ∧ (frozenIdle 0).fg = .idle ∧
      (∀ j, (frozenIdle j).isrActive = true) ∧ IsHang frozenIdle 0 :=
  ⟨⟨by decide, fun _ => rfl⟩, by constructor <;> decide, rfl, fun _ => rfl,
    fun _ _ => ⟨fun q => (nomatch (show true = false from q.noIsr)), fun f => f rfl⟩, .foreground, fun _ _ => rfl⟩

/-- A command in progress that is not moved while no interrupt is requested, and a requested interrupt of an
Idle block that is not taken: the other two ways a state never ends while one agent has no step. -/
theorem witness_BlockedStatesAndHangs_unmoved :
    (∃ s : State, s.Inv ∧ IsRun (fun _ => .envTxBusy false) (fun _ => s) ∧ s.fault = none ∧ s.fg ≠ .idle ∧
      s.isrActive = false ∧ s.irqPending = false) ∧
    ∃ s : State, s.Inv ∧ IsRun (fun _ => .envTxBusy false) (fun _ => s) ∧ s.fg = .idle ∧ s.port = none ∧
      s.irqPending = true :=
  ⟨⟨phased 8 [] (.readKey []), by constructor <;> decide, ⟨by decide, fun _ => rfl⟩, by decide, by decide, by decide,
      by decide⟩,
    ⟨{ running 8 [] with rxq := [0x41#8] }, by constructor <;> decide, ⟨by decide, fun _ => rfl⟩, by decide, by decide,
      by decide⟩⟩

theorem witness_StepsFollowTheAgenda :
    ∃ s t : State, s.cfg.Admitted ∧ s.agenda = [.foreground true, .interrupt] ++ [.envRx 0x41#8] ∧
      runMoves [.foreground true, .interrupt] s = .next t :=
  ⟨moving [.foreground true, .interrupt, .envRx 0x41#8] (running 8 []), _, by decide, by decide, rfl⟩

/-- A run that ends well, one that ends in progress, and one that ends in a fault. -/
theorem witness_WhatARunShows :
    (powerOn 8).Inv ∧ (powerOn 8).fg = .idle ∧
    (∃ r, runRecord [.caller (some 0xC00000041#36), .foreground false, .foreground false, .foreground false] (powerOn 8)
      = .next r ∧ r.final.Quiescent ∧ r.accepted.length = 1) ∧
    (∃ r, runRecord [.caller (some 0xC00000041#36), .foreground false] (powerOn 8) = .next r ∧
      r.final.fg = .tx [0x41#8] 0) ∧
    ∃ r, runRecord [.caller (some 0xF00000000#36), .foreground false] (powerOn 8) = .next r ∧ r.final.fg = .halted :=
  ⟨by constructor <;> decide, by decide, ⟨_, rfl, by constructor <;> decide, by decide⟩, ⟨_, rfl, by decide⟩, _, rfl,
    by decide⟩

end Sys2Proof.Tests
end

section
/-! What the agents' moves do outside the enabled steps and outside the ring, and that no move reads the
schedule: the lemmas and the proofs of the statements about holding, the model's own stop and the agenda. -/

namespace Sys2Proof.Machine

/-! ### An access outside the ring -/

theorem memRead_outside {i : Nat} {s : State} (h : s.cfg.N ≤ i) : memRead i s = .fault (.ringIndex i) := by
  simp [memRead, Nat.not_lt.2 h]

theorem memWrite_outside {i : Nat} {b : Byte} {s : State} (h : s.cfg.N ≤ i) :
    memWrite i b s = .fault (.ringIndex i) := by
  simp [memWrite, Nat.not_lt.2 h]

/-- Log 9: a push that is not refused and whose write index is no slot stops. -/
theorem rbTryPush_outside (b : Byte) {s : State} (hf : s.ringFull = false) (h : s.cfg.N ≤ s.rbHead) :
    rbTryPush b s = .fault (.ringIndex s.rbHead) := by
  simp [rbTryPush, hf, memWrite_outside h, Result.andThen_fault]

/-- Log 9: a pop of a ring that is not empty and whose read index is no slot stops. -/
theorem rbPop_outside {s : State} (he : s.ringEmpty = false) (h : s.cfg.N ≤ s.rbTail) :
    rbPop s = .fault (.ringIndex s.rbTail) := by
  simp [rbPop, he, memRead_outside h, Result.andThen_fault]

theorem execTRbTryPush_outside (b : Byte) {s : State} (hr : s.cmdReady = true) (hv : s.rbValid = true)
    (ha : s.irqArmed = false) (hf : s.ringFull = false) (h : s.cfg.N ≤ s.rbHead) :
    exec (.tRbTryPush b) s = .fault (.ringIndex s.rbHead) := by
  rw [execTRbTryPush_ready hr, rbTryPush_outside b (s := clearRsp s) hf h]
  simp [ha, hv, Result.andThen_fault]

theorem execTRbPop_outside {s : State} (hr : s.cmdReady = true) (hv : s.rbValid = true)
    (he : s.ringEmpty = false) (h : s.cfg.N ≤ s.rbTail) :
    exec .tRbPop s = .fault (.ringIndex s.rbTail) := by
  simp [exec, execTRbPop, accept_ready hr, hv, rbPop_outside (s := clearRsp s) he h, Result.andThen_fault]

/-- Settles O23: past the command's own checks, the storage is the first to look at the index. -/
theorem indexOutsideTheRingStops : Obligations.IndexOutsideTheRingStops :=
  fun _ hr hv =>
    ⟨fun b ha hN hroom => execTRbTryPush_outside b hr hv ha (decide_eq_false hroom) hN,
      fun hN hne => execTRbPop_outside hr hv (decide_eq_false hne) hN⟩

/-! ### An agent with no step enabled -/

/-- The foreground agent holds while the interrupt context runs, with no word to accept, and polling. -/
theorem runMove_foreground_holds {s : State} (d : Bool) (hf : s.fault = none) (h : s.fgEnabled = false) :
    runMove (.foreground d) s = .next s := by
  cases hi : s.isrActive with
  | true => simp [runMove, blockStep_running hf, foregroundEnabledStep, hi]
  | false =>
    rw [runMove_foreground hf hi]
    cases hp : s.fg with
    | idle =>
      have hw : s.port = none := by simpa [State.fgEnabled, hf, hi, hp] using h
      simp only [hw]
    | readKey acc => simp [State.fgEnabled, hf, hi, hp] at h
    | tx q v =>
      cases q with
      | nil => simp [State.fgEnabled, hf, hi, hp] at h
      | cons b rest =>
        have hb : s.txBusy = true := by simpa [State.fgEnabled, hf, hi, hp] using h
        simp [transmitStep, transmitByte, State.devReadTxBusy, hb]
    | halted => rfl

/-- The interrupt agent holds when no handler runs and no interrupt is requested. -/
theorem runMove_interrupt_holds {s : State} (hf : s.fault = none) (h : s.irqEnabled = false) :
    runMove .interrupt s = .next s := by
  obtain ⟨hi, hp⟩ : s.isrActive = false ∧ s.irqPending = false := by simpa [State.irqEnabled, hf] using h
  have ht : s.irqTakeable = false := by simp [State.irqTakeable, hp]
  rw [runMove_interrupt hf, hi]
  simp [exec, execIrqRx, ht]

/-- Settles O16: reading the coming move off the agenda changes neither agent's enabledness. -/
theorem agentWithoutEnabledStepHolds : Obligations.AgentWithoutEnabledStepHolds := by
  intro s ha hf
  refine ⟨fun d hm h => ?_, fun hm h => ?_⟩
  · rw [step_admitted ha, hm]
    exact runMove_foreground_holds (s := s.advance) d hf h
  · rw [step_admitted ha, hm]
    exact runMove_interrupt_holds (s := s.advance) hf h

/-! ### No move reads the schedule -/

/-- The state with another schedule: its agenda and its clock (log 2). -/
def State.scheduled (agenda : List Move) (clock : Nat) (s : State) : State :=
  { s with agenda := agenda, clock := clock }

@[simp] theorem scheduled_agenda (a : List Move) (n : Nat) (s : State) : (s.scheduled a n).agenda = a := rfl
@[simp] theorem scheduled_clock (a : List Move) (n : Nat) (s : State) : (s.scheduled a n).clock = n := rfl
@[simp] theorem scheduled_cfg (a : List Move) (n : Nat) (s : State) : (s.scheduled a n).cfg = s.cfg := rfl
@[simp] theorem scheduled_scheduled (a a' : List Move) (n n' : Nat) (s : State) :
    (s.scheduled a n).scheduled a' n' = s.scheduled a' n' := rfl

theorem advance_eq_scheduled {s : State} {m : Move} {rest : List Move} (h : s.agenda = m :: rest) :
    s.advance = s.scheduled rest (s.clock + 1) := by
  simp [State.advance, State.scheduled, h]

/-- An operation neither reads nor changes the schedule: under another one it comes to the same. -/
def IgnoresSchedule (f : State → Result State) : Prop :=
  ∀ (a : List Move) (n : Nat) (s : State),
    f (s.scheduled a n) = Result.andThen (f s) fun t => .next (t.scheduled a n)

theorem accept_ignoresSchedule {body : State → Result State} (h : IgnoresSchedule body) :
    IgnoresSchedule (accept body) := by
  intro a n s
  have hr : (s.scheduled a n).cmdReady = s.cmdReady := rfl
  cases hc : s.cmdReady
  · rw [accept_waits hc, accept_waits (hr.trans hc)]; rfl
  · rw [accept_ready hc, accept_ready (hr.trans hc)]
    exact h a n (clearRsp s)

theorem blockStep_ignoresSchedule {body : State → Result State} (h : IgnoresSchedule body) :
    IgnoresSchedule (blockStep body) := by
  intro a n s
  have hs : (s.scheduled a n).fault = s.fault := rfl
  cases hf : s.fault with
  | none => rw [blockStep_running hf, blockStep_running (hs.trans hf)]; exact h a n s
  | some c => rw [blockStep_faulted hf, blockStep_faulted (hs.trans hf)]; rfl

/-- A choice by a condition that the schedule has no part in. -/
theorem ite_ignoresSchedule {c : State → Bool} {f g : State → Result State}
    (hc : ∀ a n s, c (State.scheduled a n s) = c s) (hf : IgnoresSchedule f) (hg : IgnoresSchedule g) :
    IgnoresSchedule fun s => if c s then f s else g s := by
  intro a n s
  simp only [hc]
  cases c s
  · exact hg a n s
  · exact hf a n s

/-- An update that commutes with a change of schedule. -/
theorem next_ignoresSchedule {f : State → State} (h : ∀ a n s, f (State.scheduled a n s) = (f s).scheduled a n) :
    IgnoresSchedule fun s => .next (f s) :=
  fun a n s => congrArg _ (h a n s)

/-- An operation that answers a value besides the state neither reads nor changes the schedule. -/
def PairIgnoresSchedule {α : Type} (f : State → Result (State × α)) : Prop :=
  ∀ (a : List Move) (n : Nat) (s : State),
    f (s.scheduled a n) = Result.andThen (f s) fun r => .next (r.1.scheduled a n, r.2)

theorem andThen_ignoresSchedule {α : Type} {f : State → Result (State × α)} {g : State × α → Result State}
    (hf : PairIgnoresSchedule f) (hg : ∀ x, IgnoresSchedule fun s => g (s, x)) :
    IgnoresSchedule fun s => Result.andThen (f s) g := by
  intro a n s
  simp only [hf a n s]
  cases f s with
  | next r => exact hg r.2 a n r.1
  | fault r => rfl
  | refused r => rfl

theorem memWrite_ignoresSchedule (i : Nat) (b : Byte) : IgnoresSchedule (memWrite i b) := by
  intro a n s
  by_cases h : i < s.cfg.N
  · rw [memWrite_next h, memWrite_next (s := s.scheduled a n) h]; rfl
  · rw [memWrite_outside (Nat.not_lt.1 h), memWrite_outside (s := s.scheduled a n) (Nat.not_lt.1 h)]; rfl

theorem rbTryPush_ignoresSchedule (b : Byte) : PairIgnoresSchedule (rbTryPush b) := by
  intro a n s
  have hs : (s.scheduled a n).ringFull = s.ringFull := rfl
  have hm : memWrite (s.scheduled a n).rbHead b (s.scheduled a n) = _ := memWrite_ignoresSchedule s.rbHead b a n s
  simp only [rbTryPush, hs, hm]
  cases s.ringFull
  · cases memWrite s.rbHead b s <;> rfl
  · rfl

theorem rbPop_ignoresSchedule : PairIgnoresSchedule rbPop := by
  intro a n s
  have hs : (s.scheduled a n).ringEmpty = s.ringEmpty := rfl
  have hm : memRead (s.scheduled a n).rbTail (s.scheduled a n) = memRead s.rbTail s := rfl
  simp only [rbPop, hs, hm]
  cases s.ringEmpty
  · cases memRead s.rbTail s <;> rfl
  · rfl

/-- An operation that first looks for its fault. -/
theorem raiseOr_ignoresSchedule {c : State → Bool} {k : FaultCode} {f : State → Result State}
    (hc : ∀ a n s, c (State.scheduled a n s) = c s) (hf : IgnoresSchedule f) :
    IgnoresSchedule fun s => if c s then .next (raise k s) else f s :=
  ite_ignoresSchedule hc (next_ignoresSchedule fun _ _ _ => rfl) hf

/-- A command that first looks for its fault (R201). -/
theorem checked_ignoresSchedule {c : State → Bool} {k : FaultCode} {f : State → Result State}
    (hc : ∀ a n s, c (State.scheduled a n s) = c s) (hf : IgnoresSchedule f) :
    IgnoresSchedule (accept fun s => if c s then .next (raise k s) else f s) :=
  accept_ignoresSchedule (raiseOr_ignoresSchedule hc hf)

theorem exec_ignoresSchedule (i : Instr) : IgnoresSchedule (exec i) := by
  cases i with
  | init =>
    refine (checked_ignoresSchedule ?_ ?_ : IgnoresSchedule execInit) <;> exact fun _ _ _ => rfl
  | readKey =>
    refine (checked_ignoresSchedule ?_ ?_ : IgnoresSchedule execReadKey) <;> exact fun _ _ _ => rfl
  | writeKey code =>
    refine (checked_ignoresSchedule ?_ ?_ : IgnoresSchedule (execWriteKey code)) <;> exact fun _ _ _ => rfl
  | tRbReset =>
    refine (checked_ignoresSchedule ?_ ?_ : IgnoresSchedule execTRbReset) <;> exact fun _ _ _ => rfl
  | tRbTryPush b =>
    refine (checked_ignoresSchedule ?_ (raiseOr_ignoresSchedule ?_
      (andThen_ignoresSchedule (rbTryPush_ignoresSchedule b) fun _ => ?_)) : IgnoresSchedule (execTRbTryPush b)) <;>
      exact fun _ _ _ => rfl
  | tRbIsEmpty =>
    refine (checked_ignoresSchedule ?_ ?_ : IgnoresSchedule execTRbIsEmpty) <;> exact fun _ _ _ => rfl
  | tRbPop =>
    refine (checked_ignoresSchedule ?_ (andThen_ignoresSchedule rbPop_ignoresSchedule fun x => ?_) :
      IgnoresSchedule execTRbPop)
    · exact fun _ _ _ => rfl
    · cases x <;> exact fun _ _ _ => rfl
  | tTxByte b =>
    refine (accept_ignoresSchedule ?_ : IgnoresSchedule (execTTxByte b))
    exact fun _ _ _ => rfl
  | irqRx =>
    refine (ite_ignoresSchedule ?_ ?_ ?_ : IgnoresSchedule execIrqRx) <;> exact fun _ _ _ => rfl

theorem acceptWord_ignoresSchedule (w : CmdWord) : IgnoresSchedule (acceptWord w) := by
  intro a n s
  unfold acceptWord
  cases decode (.command w) with
  | some i => exact exec_ignoresSchedule i a n (takeCommand s)
  | none => exact accept_ignoresSchedule (next_ignoresSchedule fun _ _ _ => rfl) a n (takeCommand s)

theorem readKeyStep_ignoresSchedule (acc : List Byte) : IgnoresSchedule (readKeyStep acc) := by
  refine ite_ignoresSchedule (fun _ _ _ => rfl) (andThen_ignoresSchedule rbPop_ignoresSchedule fun x => ?_) ?_
  · cases x <;> exact fun _ _ _ => rfl
  · exact fun _ _ _ => rfl

theorem transmitStep_scheduled (q : List Byte) (v : KeyCode) (d : Bool) (a : List Move) (n : Nat) (s : State) :
    transmitStep q v d (s.scheduled a n) = (transmitStep q v d s).scheduled a n := by
  rcases transmitStep_cases q v d s with ⟨rfl, e⟩ | ⟨b, rest, rfl, hb, e⟩ | ⟨b, rest, rfl, hb, e⟩ <;> rw [e]
  · rfl
  · simp [transmitStep, transmitByte, State.devReadTxBusy, State.scheduled, hb]
  · simp [transmitStep, transmitByte, State.devReadTxBusy, State.scheduled, hb, devWriteData]

theorem drainOrExit_ignoresSchedule : IgnoresSchedule drainOrExit := by
  intro a n s
  cases hq : s.rxq with
  | nil => simp [drainOrExit, devReadData, hq, State.scheduled, Result.andThen_next, exitIsr]
  | cons b rest =>
    have hs : (s.scheduled a n).rxq = b :: rest := hq
    simp only [drainOrExit, devReadData, hq, hs]
    exact andThen_ignoresSchedule (rbTryPush_ignoresSchedule b) (fun _ => fun _ _ _ => rfl) a n { s with rxq := rest }

theorem foregroundEnabledStep_ignoresSchedule (d : Bool) : IgnoresSchedule (foregroundEnabledStep d) := by
  refine ite_ignoresSchedule (fun _ _ _ => rfl) (fun _ _ _ => rfl) fun a n s => ?_
  have hp : (s.scheduled a n).fg = s.fg := rfl
  have hw : (s.scheduled a n).port = s.port := rfl
  simp only [hp, hw]
  cases s.fg with
  | idle =>
    cases s.port with
    | none => rfl
    | some w => exact acceptWord_ignoresSchedule w a n s
  | readKey acc => exact readKeyStep_ignoresSchedule acc a n s
  | tx q v => exact congrArg _ (transmitStep_scheduled q v d a n s)
  | halted => rfl

/-- Log 2: the agenda and the clock choose the moves and have no part in what a move does. -/
theorem runMove_ignoresSchedule (m : Move) : IgnoresSchedule (runMove m) := by
  cases m with
  | foreground d => exact blockStep_ignoresSchedule (foregroundEnabledStep_ignoresSchedule d)
  | interrupt => exact blockStep_ignoresSchedule <|
      ite_ignoresSchedule (fun _ _ _ => rfl) drainOrExit_ignoresSchedule (exec_ignoresSchedule .irqRx)
  | envRx b => exact fun _ _ _ => rfl
  | envTxBusy busy => exact fun _ _ _ => rfl
  | caller cmd => exact fun _ _ _ => rfl

theorem runMove_scheduled {m : Move} {s t : State} (h : runMove m s = .next t) (a : List Move) (n : Nat) :
    runMove m (s.scheduled a n) = .next (t.scheduled a n) := by
  rw [runMove_ignoresSchedule, h, Result.andThen_next]

theorem runMoves_cons {m : Move} {ms : List Move} {s t : State} (h : runMoves (m :: ms) s = .next t) :
    ∃ u, runMove m s = .next u ∧ runMoves ms u = .next t := andThen_inv h

theorem runMoves_scheduled {ms : List Move} {s t : State} (h : runMoves ms s = .next t) (a : List Move) (n : Nat) :
    runMoves ms (s.scheduled a n) = .next (t.scheduled a n) := by
  induction ms generalizing s with
  | nil => injection h with h; subst h; rfl
  | cons m ms ih =>
    obtain ⟨u, hm, hms⟩ := runMoves_cons h
    simpa [runMoves, runMove_scheduled hm, Result.andThen_next] using ih hms

/-! ### The steps of an agenda -/

theorem CommandEffect.keeps_cfg {i : Instr} {s t : State} (h : CommandEffect s i t) : t.cfg = s.cfg := by
  cases h <;> rfl

theorem MoveEffect.keeps_cfg {m : Move} {s t : State} (h : MoveEffect s m t) : t.cfg = s.cfg := by
  cases h with
  | command d w i t hr hp hd he => exact he.keeps_cfg
  | _ => rfl

/-- One step takes the agenda's first move, and leaves the rest of the agenda and a clock one tick on. -/
theorem step_of_runMove {m : Move} {rest : List Move} {s t : State} (ha : s.cfg.Admitted)
    (hag : s.agenda = m :: rest) (h : runMove m s = .next t) :
    step s = .next (t.scheduled rest (s.clock + 1)) := by
  rw [step_admitted ha, nextMove_cons hag, advance_eq_scheduled hag]
  exact runMove_scheduled h rest (s.clock + 1)

theorem core_run_succ {s t : State} (h : step s = .next t) (k : Nat) :
    Host.Core.run Sys2Proof.core (k + 1) s = Host.Core.run Sys2Proof.core k t := by
  have h' : Sys2Proof.core.step s = .next t := h
  simp only [Host.Core.run, h']

theorem core_run_of_runMoves {ms rest : List Move} {s t : State} (ha : s.cfg.Admitted)
    (hag : s.agenda = ms ++ rest) (h : runMoves ms s = .next t) :
    Host.Core.run Sys2Proof.core ms.length s = .next (t.scheduled rest (s.clock + ms.length)) := by
  induction ms generalizing s t with
  | nil =>
    injection h with h
    subst h
    have hs : s.scheduled rest s.clock = s := by rw [← show s.agenda = rest from hag]; rfl
    exact congrArg _ hs.symm
  | cons m ms ih =>
    obtain ⟨u, hm, hms⟩ := runMoves_cons h
    have hu : (u.scheduled (ms ++ rest) (s.clock + 1)).cfg.Admitted := by
      rw [scheduled_cfg, (runMove_effect hm).keeps_cfg]
      exact ha
    calc
      Host.Core.run Sys2Proof.core (ms.length + 1) s
        = Host.Core.run Sys2Proof.core ms.length (u.scheduled (ms ++ rest) (s.clock + 1)) :=
          core_run_succ (step_of_runMove ha hag hm) ms.length
      _ = .next (t.scheduled rest (s.clock + 1 + ms.length)) :=
          by simpa using ih hu rfl (runMoves_scheduled hms (ms ++ rest) (s.clock + 1))
      _ = .next (t.scheduled rest (s.clock + (m :: ms).length)) := by
          rw [List.length_cons, Nat.add_right_comm, Nat.add_assoc]

/-- Settles O59, by induction on the moves: a step takes the first of them, and the others lead to the same
state under the schedule that this step leaves. -/
theorem stepsFollowTheAgenda : Obligations.StepsFollowTheAgenda :=
  fun _ _ _ _ ha hag h => core_run_of_runMoves ha hag h

end Sys2Proof.Machine
end

section
/-! Who writes which element of the state, and how the ring's predicates read its count: the lemmas and the
proofs of the statements about the state (spec/10_state.md). -/

namespace Sys2Proof.Machine

/-! ### The count of the ring (R25) -/

theorem contents_length (s : State) : s.contents.length = s.ringCount := by simp [State.contents]

theorem head_eq_tail_iff_ringCount {s : State} (hh : s.rbHead < s.cfg.N) (ht : s.rbTail < s.cfg.N) :
    s.rbHead = s.rbTail ↔ s.ringCount = 0 := by
  rw [ringCount_eq hh ht]
  split <;> omega

theorem nextIndex_head_eq_tail_iff_ringCount {s : State} (hh : s.rbHead < s.cfg.N) (ht : s.rbTail < s.cfg.N) :
    s.nextIndex s.rbHead = s.rbTail ↔ s.ringCount = s.cfg.N - 1 := by
  rw [nextIndex_eq hh, ringCount_eq hh ht]
  split <;> split <;> omega

/-- A ring of one slot never holds a byte: its count is 0, which is also `N − 1`. -/
theorem ringCount_of_single_slot {s : State} (h : s.cfg.N = 1) : s.ringCount = 0 := by
  have hlt : s.ringCount < s.cfg.N := ringCount_lt (by omega)
  omega

/-- Settles O33: each predicate compares the indices, and the count is their distance around the ring. -/
theorem ringCountLaws : Obligations.RingCountLaws := by
  intro s hh ht
  have hempty := head_eq_tail_iff_ringCount hh ht
  have hfull := nextIndex_head_eq_tail_iff_ringCount hh ht
  refine ⟨contents_length s, Nat.le_pred_of_lt (ringCount_lt (by omega)), hempty, hfull, fun h1 => ?_⟩
  have h0 := ringCount_of_single_slot h1
  exact ⟨decide_eq_true (hempty.2 h0), decide_eq_true (hfull.2 (by rw [h0, h1]))⟩

/-! ### The environment and the caller -/

/-- The step of an admitted configuration takes the coming move once it is read off the agenda. -/
theorem step_of_nextMove {s : State} {m : Move} (ha : s.cfg.Admitted) (hm : s.nextMove = m) :
    step s = runMove m s.advance := hm ▸ step_admitted ha

/-- Settles O17: the moves of the environment and the caller do not look at the block's state. -/
theorem environmentMoves : Obligations.EnvironmentMoves :=
  fun _ ha => ⟨fun _ hm => step_of_nextMove ha hm, fun _ hm => step_of_nextMove ha hm,
    fun _ hm => step_of_nextMove ha hm⟩

/-! ### What an accepted command leaves to the other agents (R42) -/

/-- No command writes `isr_active`, the received bytes, the busy flag or the transmit log. -/
theorem CommandEffect.keeps_isr_and_device {i : Instr} {s t : State} (h : CommandEffect s i t) :
    t.isrActive = s.isrActive ∧ t.rxq = s.rxq ∧ t.txBusy = s.txBusy ∧ t.txLog = s.txLog := by
  cases h <;> exact ⟨rfl, rfl, rfl, rfl⟩

/-- Once the producer is armed, no command writes the head or the storage: INIT has run already, and
T_RB_RESET and T_RB_TRY_PUSH raise their fault. -/
theorem CommandEffect.keeps_head_and_storage_of_armed {i : Instr} {s t : State} (h : CommandEffect s i t)
    (hinit : s.initDone = s.irqArmed) (ha : s.irqArmed = true) : t.rbHead = s.rbHead ∧ t.rbMem = s.rbMem := by
  cases h with
  | init hd => simp [← hinit, hd] at ha
  | tRbReset hn => simp [hn] at ha
  | pushStore b hn => simp [hn] at ha
  | _ => exact ⟨rfl, rfl⟩

theorem CommandEffect.read_other {i : Instr} {s t : State} (h : CommandEffect s i t) (hw : Memory.wf s.rbMem)
    {a : Nat} (ha : a ≠ s.rbHead) : Memory.read t.rbMem a = Memory.read s.rbMem a := by
  cases h with
  | pushStore b => exact Memory.read_write_other hw b ha
  | _ => rfl

/-! ### What a move leaves to the other agents (R42) -/

/-- A move that is not the foreground's writes the head and the storage, `isr_active`, and what the environment
and the caller drive. -/
theorem MoveEffect.frame_of_not_foreground {m : Move} {s t : State} (h : MoveEffect s m t)
    (hm : ∀ d, m ≠ .foreground d) :
    t = { s with
      rbMem := t.rbMem, rbHead := t.rbHead, isrActive := t.isrActive, rxq := t.rxq, txBusy := t.txBusy,
      port := t.port } := by
  cases m with
  | foreground d => exact absurd rfl (hm d)
  | _ => cases h <;> rfl

/-- A foreground move leaves `isr_active` and the received bytes, and moves the busy flag only with a write of
the data register (R57). -/
theorem MoveEffect.foreground_keeps_isr_and_rxq {d : Bool} {s t : State} (h : MoveEffect s (.foreground d) t) :
    t.isrActive = s.isrActive ∧ t.rxq = s.rxq ∧ (t.txBusy ≠ s.txBusy → t.txLog ≠ s.txLog) := by
  cases h with
  | command _ w i _ hr hp hd he =>
    obtain ⟨hisr, hrxq, hbusy, -⟩ := he.keeps_isr_and_device
    exact ⟨hisr, hrxq, fun hne => absurd hbusy hne⟩
  | txWrite _ b => exact ⟨rfl, rfl, fun _ => by simp [devWriteData]⟩
  | _ => exact ⟨rfl, rfl, fun hne => absurd rfl hne⟩

theorem MoveEffect.foreground_keeps_head_and_storage_of_armed {d : Bool} {s t : State}
    (h : MoveEffect s (.foreground d) t) (hinit : s.initDone = s.irqArmed) (ha : s.irqArmed = true) :
    t.rbHead = s.rbHead ∧ t.rbMem = s.rbMem := by
  cases h with
  | command _ w i _ hr hp hd he => exact he.keeps_head_and_storage_of_armed hinit ha
  | _ => exact ⟨rfl, rfl⟩

/-- The storage's only slot that a move may write is the head's. -/
theorem MoveEffect.read_other {m : Move} {s t : State} (h : MoveEffect s m t) (hw : Memory.wf s.rbMem)
    {a : Nat} (ha : a ≠ s.rbHead) : Memory.read t.rbMem a = Memory.read s.rbMem a := by
  cases h with
  | command d w i _ hr hp hd he => exact he.read_other hw ha
  | drainStore b => exact Memory.read_write_other hw b ha
  | _ => rfl

/-! ### The writer of each element (R42) -/

theorem MoveEffect.writer_of_head_or_storage {m : Move} {s t : State} (h : MoveEffect s m t)
    (hinit : s.initDone = s.irqArmed) (hne : t.rbHead ≠ s.rbHead ∨ t.rbMem ≠ s.rbMem) :
    m = .interrupt ∨ (s.irqArmed = false ∧ ∃ d, m = .foreground d) := by
  cases m with
  | interrupt => exact .inl rfl
  | foreground d =>
    refine .inr ⟨Bool.eq_false_iff.2 fun ha => ?_, d, rfl⟩
    obtain ⟨hhead, hmem⟩ := h.foreground_keeps_head_and_storage_of_armed hinit ha
    exact hne.elim (absurd hhead) (absurd hmem)
  | _ => cases h; exact hne.elim (absurd rfl) (absurd rfl)

theorem MoveEffect.writer_of_tail {m : Move} {s t : State} (h : MoveEffect s m t) (hne : t.rbTail ≠ s.rbTail) :
    ∃ d, m = .foreground d := by
  by_contra hn
  rw [h.frame_of_not_foreground (not_exists.1 hn)] at hne
  exact hne rfl

/-- The marks, the phase, the fault, the response and the transmit log have the foreground as their writer. -/
theorem MoveEffect.writer_of_marks_or_phase {m : Move} {s t : State} (h : MoveEffect s m t)
    (hne : t.rbValid ≠ s.rbValid ∨ t.initDone ≠ s.initDone ∨ t.irqArmed ≠ s.irqArmed ∨ t.rxIrqEn ≠ s.rxIrqEn ∨
      t.fg ≠ s.fg ∨ t.fault ≠ s.fault ∨ t.rspValid ≠ s.rspValid ∨ t.rspData ≠ s.rspData ∨ t.txLog ≠ s.txLog) :
    ∃ d, m = .foreground d := by
  by_contra hn
  rw [h.frame_of_not_foreground (not_exists.1 hn)] at hne
  simp at hne

theorem MoveEffect.writer_of_isrActive {m : Move} {s t : State} (h : MoveEffect s m t)
    (hne : t.isrActive ≠ s.isrActive) : m = .interrupt := by
  cases m with
  | interrupt => rfl
  | foreground d =>
    obtain ⟨hisr, -, -⟩ := h.foreground_keeps_isr_and_rxq
    exact absurd hisr hne
  | _ => cases h; exact absurd rfl hne

theorem MoveEffect.writer_of_rxq {m : Move} {s t : State} (h : MoveEffect s m t) (hne : t.rxq ≠ s.rxq) :
    m = .interrupt ∨ ∃ b, m = .envRx b := by
  cases m with
  | interrupt => exact .inl rfl
  | envRx b => exact .inr ⟨b, rfl⟩
  | foreground d =>
    obtain ⟨-, hrxq, -⟩ := h.foreground_keeps_isr_and_rxq
    exact absurd hrxq hne
  | _ => cases h; exact absurd rfl hne

theorem MoveEffect.writer_of_txBusy {m : Move} {s t : State} (h : MoveEffect s m t) (hne : t.txBusy ≠ s.txBusy) :
    (∃ v, m = .envTxBusy v) ∨ ((∃ d, m = .foreground d) ∧ t.txLog ≠ s.txLog) := by
  cases m with
  | envTxBusy v => exact .inl ⟨v, rfl⟩
  | foreground d =>
    obtain ⟨-, -, hwrite⟩ := h.foreground_keeps_isr_and_rxq
    exact .inr ⟨⟨d, rfl⟩, hwrite hne⟩
  | _ => cases h <;> exact absurd rfl hne

/-- Settles O37: a step is its move's effect, and each element's writer is read off it; that INIT is not run a
second time comes from the invariant's `initArms`. -/
theorem onlyTheOwnerWritesEachElement : Obligations.OnlyTheOwnerWritesEachElement := by
  intro s t hinv h
  obtain ⟨-, he⟩ := step_effect h
  exact ⟨fun hne => he.writer_of_head_or_storage hinv.initArms (.inl hne), he.writer_of_tail,
    fun hne => he.writer_of_head_or_storage hinv.initArms (.inr hne), fun _ => he.read_other hinv.memWf,
    he.writer_of_marks_or_phase, he.writer_of_isrActive, he.writer_of_rxq, he.writer_of_txBusy⟩

end Sys2Proof.Machine
end

section
/-! The ring as a queue of bytes (R59, spec/20_memory.md): what one step does to the ring, read off its move, and
the statement about every run. -/

namespace Sys2Proof.Machine

/-! ### What can happen to the ring -/

/-- `t` has the ring of `s`. -/
def SameRing (s t : State) : Prop :=
  t.rbMem = s.rbMem ∧ t.rbHead = s.rbHead ∧ t.rbTail = s.rbTail ∧ t.cfg = s.cfg

theorem SameRing.contents {s t : State} (h : SameRing s t) : t.contents = s.contents := by
  obtain ⟨hmem, hhead, htail, hcfg⟩ := h
  exact contents_congr hmem hhead htail hcfg

/-- What a step without a ring reset does to the ring, with the bytes it pushes and those it pops: nothing, one
push (R102) or one pop (R104). -/
inductive RingEffect (s t : State) : List Byte → List Byte → Prop where
  | kept (h : SameRing s t) : RingEffect s t [] []
  | stored (b : Byte) (hf : s.ringFull = false)
      (h : SameRing { s with rbMem := Memory.write s.rbMem s.rbHead b, rbHead := s.nextIndex s.rbHead } t) :
      RingEffect s t [b] []
  | popped (he : s.ringEmpty = false) (h : SameRing { s with rbTail := s.nextIndex s.rbTail } t) :
      RingEffect s t [] [Memory.read s.rbMem s.rbTail]

/-- The part of the invariant that the ring's order rests on. -/
structure State.RingInv (s : State) : Prop where
  memWf : Memory.wf s.rbMem
  headInRange : s.rbHead < s.cfg.N
  tailInRange : s.rbTail < s.cfg.N

theorem State.Inv.ringInv {s : State} (h : s.Inv) : s.RingInv := ⟨h.memWf, h.headInRange, h.tailInRange⟩

theorem SameRing.keeps_ringInv {s t : State} (h : SameRing s t) (hs : s.RingInv) : t.RingInv := by
  obtain ⟨hmem, hhead, htail, hcfg⟩ := h
  exact ⟨hmem ▸ hs.memWf, by rw [hhead, hcfg]; exact hs.headInRange, by rw [htail, hcfg]; exact hs.tailInRange⟩

theorem RingEffect.keeps_ringInv {s t : State} {pushed popped : List Byte} (h : RingEffect s t pushed popped)
    (hs : s.RingInv) : t.RingInv := by
  have next_lt (i : Nat) : s.nextIndex i < s.cfg.N := nextIndex_lt (Nat.zero_lt_of_lt hs.headInRange) i
  cases h with
  | kept h => exact h.keeps_ringInv hs
  | stored b _ h => exact h.keeps_ringInv ⟨Memory.write_wf hs.memWf s.rbHead b, next_lt s.rbHead, hs.tailInRange⟩
  | popped _ h => exact h.keeps_ringInv ⟨hs.memWf, hs.headInRange, next_lt s.rbTail⟩

/-- R59 for one step: the contents and the byte pushed are the byte popped and the new contents. -/
theorem RingEffect.fifo {s t : State} {pushed popped : List Byte} (h : RingEffect s t pushed popped)
    (hs : s.RingInv) : s.contents ++ pushed = popped ++ t.contents := by
  cases h with
  | kept h => simp [h.contents]
  | stored b hf h => simp [h.contents, contents_push hs.memWf hs.headInRange hs.tailInRange hf b]
  | popped he h => simp [h.contents, contents_pop hs.headInRange hs.tailInRange he]

/-! ### What the coming step accepts, pushes and pops -/

theorem accepting_of_not_ready {s : State} (h : s.cmdReady = false) : s.accepting = none := by
  unfold State.accepting
  split <;> simp [h]

theorem accepting_of_busy {s : State} {p : Phase} (hp : s.fg = p) (hne : p ≠ .idle) : s.accepting = none :=
  accepting_of_not_ready (by simp [State.cmdReady, hp, hne])

theorem accepting_of_not_foreground {s : State} (h : ∀ d, s.nextMove ≠ .foreground d) : s.accepting = none := by
  unfold State.accepting
  split
  · exact absurd ‹_› (h _)
  all_goals rfl

/-- A foreground move of a ready block accepts what the word on the port decodes to. -/
theorem accepting_of_ready {s : State} {d : Bool} (hm : s.nextMove = .foreground d) (hr : s.cmdReady = true) :
    s.accepting = s.port.bind fun w => decode (.command w) := by simp [State.accepting, hm, hr]

/-- A step that accepts a command is a foreground move of an idle block. -/
theorem foreground_of_accepting {s : State} {i : Instr} (h : s.accepting = some i) :
    (∃ d, s.nextMove = .foreground d) ∧ s.fg = .idle := by
  constructor
  · by_contra hm
    simp [accepting_of_not_foreground (not_exists.1 hm)] at h
  · by_contra hp
    simp [accepting_of_busy rfl hp] at h

/-- Outside the interrupt agent, only an accepted command pushes. -/
theorem pushedBytes_of_accepting_none {s : State} (hm : s.nextMove ≠ .interrupt) (ha : s.accepting = none) :
    s.pushedBytes = [] := by
  unfold State.pushedBytes
  split
  · rfl
  · split <;> simp_all

theorem pushedBytes_of_other_command {s : State} {i : Instr} (ha : s.accepting = some i)
    (hi : ∀ b, i ≠ .tRbTryPush b) : s.pushedBytes = [] := by
  obtain ⟨⟨d, hm⟩, -⟩ := foreground_of_accepting ha
  unfold State.pushedBytes
  split
  · rfl
  · split
    · simp_all
    · rename_i b hb _
      exact absurd (Option.some.inj (ha.symm.trans hb)) (hi b)
    · rfl

theorem pushedBytes_of_tryPush {s : State} {b : Byte} (ha : s.accepting = some (.tRbTryPush b)) :
    s.pushedBytes = if s.ringFull || s.irqArmed || !s.rbValid then [] else [b] := by
  obtain ⟨⟨d, hm⟩, -⟩ := foreground_of_accepting ha
  cases hf : s.ringFull <;> simp [State.pushedBytes, hf, hm, ha]

theorem pushedBytes_of_interrupt {s : State} (hm : s.nextMove = .interrupt) :
    s.pushedBytes = if s.ringFull || !s.isrActive || s.fault.isSome then [] else s.rxq.take 1 := by
  cases hf : s.ringFull <;> cases hi : s.isrActive <;> cases hc : s.fault <;>
    simp [State.pushedBytes, hf, hm, hi, hc]

theorem poppedBytes_of_not_foreground {s : State} (h : ∀ d, s.nextMove ≠ .foreground d) : s.poppedBytes = [] := by
  have hp : s.popsRing = false := by
    unfold State.popsRing
    split <;> simp_all
  simp [State.poppedBytes, hp]

theorem poppedBytes_of_other_command {s : State} {i : Instr} (ha : s.accepting = some i) (hi : i ≠ .tRbPop) :
    s.poppedBytes = [] := by
  obtain ⟨⟨d, hm⟩, hp⟩ := foreground_of_accepting ha
  have hpop : s.popsRing = false := by
    unfold State.popsRing
    split <;> simp_all
  simp [State.poppedBytes, hpop]

theorem poppedBytes_of_pop {s : State} (ha : s.accepting = some .tRbPop) :
    s.poppedBytes = if s.rbValid && !s.ringEmpty then [Memory.read s.rbMem s.rbTail] else [] := by
  obtain ⟨⟨d, hm⟩, -⟩ := foreground_of_accepting ha
  simp [State.poppedBytes, State.popsRing, hm, ha, Bool.and_comm]

/-- A step that accepts nothing pops nothing, but for a READ_KEY iteration. -/
theorem poppedBytes_of_accepting_none {s : State} (ha : s.accepting = none)
    (hp : ∀ acc, s.fg = .readKey acc → s.isrActive = true ∨ s.continues acc = false) : s.poppedBytes = [] := by
  have hpop : s.popsRing = false := by
    unfold State.popsRing
    split
    · simp_all
    · rename_i acc _ hfg _
      rcases hp acc hfg with h | h <;> simp [h]
    · simp
  simp [State.poppedBytes, hpop]

/-- A READ_KEY iteration pops the oldest byte. -/
theorem poppedBytes_of_iterate {s : State} {d : Bool} {acc : List Byte} (hm : s.nextMove = .foreground d)
    (hp : s.fg = .readKey acc) (hc : s.continues acc = true) (hi : s.isrActive = false) (hf : s.fault = none) :
    s.ringEmpty = false ∧ s.poppedBytes = [Memory.read s.rbMem s.rbTail] := by
  have ha : s.accepting = none := accepting_of_busy hp (by simp)
  have he : s.ringEmpty = false := by
    simp only [State.continues, Bool.and_eq_true] at hc
    simpa using hc.1.1
  exact ⟨he, by simp [State.poppedBytes, State.popsRing, hm, ha, hp, hc, hi, hf, he]⟩

/-! ### What one step does to the ring -/

/-- A recorded fault pushes and pops nothing, and leaves the ring. -/
theorem ringEffect_of_commandFault {s t : State} {i : Instr} {c : FaultCode} (ha : s.accepting = some i)
    (hc : commandFault s i = some c) (h : SameRing s t) : RingEffect s t s.pushedBytes s.poppedBytes := by
  have hpush : s.pushedBytes = [] := by
    by_cases hi : ∃ b, i = .tRbTryPush b
    · obtain ⟨b, rfl⟩ := hi
      rw [pushedBytes_of_tryPush ha]
      cases hn : s.irqArmed <;> cases hv : s.rbValid <;> simp [commandFault, hn, hv] at hc ⊢
    · exact pushedBytes_of_other_command ha (not_exists.1 hi)
  have hpop : s.poppedBytes = [] := by
    by_cases hi : i = .tRbPop
    · subst hi
      rw [poppedBytes_of_pop ha]
      cases hv : s.rbValid <;> cases he : s.ringEmpty <;> simp [commandFault, hv, he] at hc ⊢
    · exact poppedBytes_of_other_command ha hi
  rw [hpush, hpop]
  exact .kept h

/-- The step of a command that neither pushes nor pops. -/
theorem ringEffect_of_other_command {s t : State} {i : Instr} (ha : s.accepting = some i)
    (hpush : ∀ b, i ≠ .tRbTryPush b) (hpop : i ≠ .tRbPop) (h : SameRing s t) :
    RingEffect s t s.pushedBytes s.poppedBytes := by
  rw [pushedBytes_of_other_command ha hpush, poppedBytes_of_other_command ha hpop]
  exact .kept h

/-- An accepted command that does not reset the ring pushes and pops what `pushedBytes` and `poppedBytes` say. -/
theorem CommandEffect.ringEffect {s t : State} {i : Instr} (h : CommandEffect (takeCommand s.advance) i t)
    (ha : s.accepting = some i) (hreset : s.resetsRing = false) : RingEffect s t s.pushedBytes s.poppedBytes := by
  cases h with
  | raised i c hc => exact ringEffect_of_commandFault ha hc ⟨rfl, rfl, rfl, rfl⟩
  | init hd =>
    replace hd : s.initDone = false := hd
    simp [State.resetsRing, ha, hd] at hreset
  | tRbReset hn =>
    replace hn : s.irqArmed = false := hn
    simp [State.resetsRing, ha, hn] at hreset
  | pushFull b hn hv hf =>
    replace hf : s.ringFull = true := hf
    rw [pushedBytes_of_tryPush ha, poppedBytes_of_other_command ha (by simp), hf]
    exact .kept ⟨rfl, rfl, rfl, rfl⟩
  | pushStore b hn hv hf =>
    have hb : s.pushedBytes = [b] := by
      replace hn : s.irqArmed = false := hn
      replace hv : s.rbValid = true := hv
      replace hf : s.ringFull = false := hf
      simp [pushedBytes_of_tryPush ha, hn, hv, hf]
    rw [hb, poppedBytes_of_other_command ha (by simp)]
    exact .stored b hf ⟨rfl, rfl, rfl, rfl⟩
  | tRbPop hv he =>
    have hb : s.poppedBytes = [Memory.read s.rbMem s.rbTail] := by
      replace hv : s.rbValid = true := hv
      replace he : s.ringEmpty = false := he
      simp [poppedBytes_of_pop ha, hv, he]
    rw [pushedBytes_of_other_command ha (by simp), hb]
    exact .popped he ⟨rfl, rfl, rfl, rfl⟩
  | _ => exact ringEffect_of_other_command ha (by simp) (by simp) ⟨rfl, rfl, rfl, rfl⟩

/-- A step that accepts nothing, is not the interrupt agent's and is no READ_KEY iteration. -/
theorem ringEffect_of_accepting_none {s t : State} (hm : s.nextMove ≠ .interrupt) (ha : s.accepting = none)
    (hp : ∀ acc, s.fg = .readKey acc → s.isrActive = true ∨ s.continues acc = false) (h : SameRing s t) :
    RingEffect s t s.pushedBytes s.poppedBytes := by
  rw [pushedBytes_of_accepting_none hm ha, poppedBytes_of_accepting_none ha hp]
  exact .kept h

/-- Each foreground step: a command by its effect, a READ_KEY iteration one pop, the others nothing. -/
theorem MoveEffect.foreground_ringEffect {s t : State} {d : Bool} (h : MoveEffect s.advance (.foreground d) t)
    (hm : s.nextMove = .foreground d) (hreset : s.resetsRing = false) :
    RingEffect s t s.pushedBytes s.poppedBytes := by
  have hirq : s.nextMove ≠ .interrupt := by simp [hm]
  cases h with
  | command _ w i _ hr hp hd he =>
    replace hp : s.port = some w := hp
    exact he.ringEffect (by simp [accepting_of_ready hm hr, hp, hd]) hreset
  | iterate _ acc hf hi hp hc =>
    obtain ⟨he, hb⟩ := poppedBytes_of_iterate hm hp hc hi hf
    rw [pushedBytes_of_accepting_none hirq (accepting_of_busy hp (by simp)), hb]
    exact .popped he ⟨rfl, rfl, rfl, rfl⟩
  | reserved _ w hr hp hd =>
    replace hp : s.port = some w := hp
    obtain ⟨hidle, -, -⟩ := cmdReady_iff.1 hr
    replace hidle : s.fg = .idle := hidle
    exact ringEffect_of_accepting_none hirq (by simp [accepting_of_ready hm hr, hp, hd]) (by simp [hidle])
      ⟨rfl, rfl, rfl, rfl⟩
  | finish _ acc hf hi hp hc =>
    replace hp : s.fg = .readKey acc := hp
    refine ringEffect_of_accepting_none hirq (accepting_of_busy hp (by simp)) (fun acc' h => .inr ?_)
      ⟨rfl, rfl, rfl, rfl⟩
    obtain rfl : acc = acc' := by simpa [hp] using h
    exact hc
  | txWrite _ b rest v hf hi hp =>
    replace hp : s.fg = .tx (b :: rest) v := hp
    exact ringEffect_of_accepting_none hirq (accepting_of_busy hp (by simp)) (by simp [hp]) ⟨rfl, rfl, rfl, rfl⟩
  | txDone _ v hf hi hp =>
    replace hp : s.fg = .tx [] v := hp
    exact ringEffect_of_accepting_none hirq (accepting_of_busy hp (by simp)) (by simp [hp]) ⟨rfl, rfl, rfl, rfl⟩
  | fgHold _ hf hw =>
    replace hw : s.isrActive = true ∨ (s.fg = .idle ∧ s.port = none) ∨ s.fg = .halted ∨
      (s.txBusy = true ∧ ∃ b rest v, s.fg = .tx (b :: rest) v) := hw
    have ha : s.accepting = none := by
      rcases hw with hi | ⟨hp, hw⟩ | hp | ⟨-, b, rest, v, hp⟩
      · exact accepting_of_not_ready (by simp [State.cmdReady, hi])
      · simp [State.accepting, hm, hw]
      · exact accepting_of_busy hp (by simp)
      · exact accepting_of_busy hp (by simp)
    exact ringEffect_of_accepting_none hirq ha (fun acc h => .inl (by simpa [h] using hw)) ⟨rfl, rfl, rfl, rfl⟩

/-- The producer stores the oldest received byte, or, in a full ring, loses it; entry and exit leave the ring. -/
theorem MoveEffect.interrupt_ringEffect {s t : State} (h : MoveEffect s.advance .interrupt t)
    (hm : s.nextMove = .interrupt) : RingEffect s t s.pushedBytes s.poppedBytes := by
  rw [poppedBytes_of_not_foreground (by simp [hm]), pushedBytes_of_interrupt hm]
  cases h with
  | irqHold hf hi =>
    replace hi : s.isrActive = false := hi
    simpa [hi] using .kept ⟨rfl, rfl, rfl, rfl⟩
  | enter ht =>
    have hi : s.isrActive = false := by
      simp only [State.irqTakeable, Bool.and_eq_true, Bool.not_eq_true'] at ht
      obtain ⟨⟨-, hi⟩, -⟩ := ht
      exact hi
    simpa [hi] using .kept ⟨rfl, rfl, rfl, rfl⟩
  | drainFull b rest hf hi hq hfull =>
    replace hfull : s.ringFull = true := hfull
    simpa [hfull] using .kept ⟨rfl, rfl, rfl, rfl⟩
  | drainStore b rest hf hi hq hfull =>
    replace hf : s.fault = none := hf
    replace hi : s.isrActive = true := hi
    replace hq : s.rxq = b :: rest := hq
    replace hfull : s.ringFull = false := hfull
    simpa [hf, hi, hq, hfull] using .stored b hfull ⟨rfl, rfl, rfl, rfl⟩
  | exit hf hi hq =>
    replace hq : s.rxq = [] := hq
    simpa [hq] using .kept ⟨rfl, rfl, rfl, rfl⟩

/-- A step without a ring reset has one effect on the ring, with the bytes that `pushedBytes` and `poppedBytes`
name. -/
theorem step_ringEffect {s t : State} (h : step s = .next t) (hreset : s.resetsRing = false) :
    RingEffect s t s.pushedBytes s.poppedBytes := by
  obtain ⟨-, he⟩ := step_effect h
  cases hm : s.nextMove <;> rw [hm] at he
  case foreground d => exact he.foreground_ringEffect hm hreset
  case interrupt => exact he.interrupt_ringEffect hm
  all_goals
    cases he
    rw [pushedBytes_of_accepting_none (by simp [hm]) (accepting_of_not_foreground (by simp [hm])),
      poppedBytes_of_not_foreground (by simp [hm])]
    exact .kept ⟨rfl, rfl, rfl, rfl⟩

/-! ### Every run -/

theorem ByteFlow.fifo {s t : State} {pushed popped : List Byte} (h : ByteFlow s pushed popped t)
    (hs : s.RingInv) : s.contents ++ pushed = popped ++ t.contents := by
  induction h with
  | done s => simp
  | @more s u t pushed popped hstep hreset _ ih =>
    have he := step_ringEffect hstep hreset
    calc
      s.contents ++ (s.pushedBytes ++ pushed)
        = s.poppedBytes ++ (u.contents ++ pushed) := by
          rw [← List.append_assoc, he.fifo hs, List.append_assoc]
      _ = s.poppedBytes ++ popped ++ t.contents := by rw [ih (he.keeps_ringInv hs), List.append_assoc]

/-- Settles O36, by induction on the run: each step does one thing to the ring, which keeps the order of its
bytes. -/
theorem ringIsFifoOverEveryRun : Obligations.RingIsFifoOverEveryRun :=
  fun _ _ _ _ hinv h => h.fifo hinv.ringInv

end Sys2Proof.Machine
end

section
/-! The encoding (spec/30_encoding.md): a command word as its two fields, decoding and encoding as inverses, the
reserved words, and the rows of the opcode table; the lemmas and the proofs of the statements about them. -/

namespace Sys2Proof

/-! ### The fields of a word (R71) -/

@[simp] theorem CmdWord.make_op (op : BitVec 4) (arg : BitVec 32) : (CmdWord.make op arg).op = op :=
  BitVec.extractLsb'_append_eq_left

@[simp] theorem CmdWord.make_arg (op : BitVec 4) (arg : BitVec 32) : (CmdWord.make op arg).arg = arg :=
  BitVec.extractLsb'_append_eq_right

@[simp] theorem CmdWord.make_op_arg (w : CmdWord) : CmdWord.make w.op w.arg = w :=
  BitVec.extractLsb'_append_extractLsb'

/-! ### The operand in the `arg` field (R73) -/

@[simp] theorem byteArg_high (b : Byte) : (byteArg b).extractLsb' 8 24 = 0 := BitVec.extractLsb'_append_eq_left

@[simp] theorem byteArg_low (b : Byte) : (byteArg b).extractLsb' 0 8 = b := BitVec.extractLsb'_append_eq_right

/-- An `arg` within the constraint of a byte operand carries its low byte. -/
theorem byteArg_of_high_zero {arg : BitVec 32} (h : arg.extractLsb' 8 24 = 0) :
    byteArg (arg.extractLsb' 0 8) = arg := by
  have hparts : arg.extractLsb' 8 24 ++ arg.extractLsb' 0 8 = arg := BitVec.extractLsb'_append_extractLsb'
  rwa [h] at hparts

@[simp] theorem noOperand_zero (i : Instr) : noOperand 0#32 i = some i := rfl

@[simp] theorem byteOperand_byteArg (b : Byte) (f : Byte → Instr) : byteOperand (byteArg b) f = some (f b) := by
  simp [byteOperand]

theorem noOperand_eq_some_iff {arg : BitVec 32} {i j : Instr} : noOperand arg i = some j ↔ arg = 0 ∧ i = j := by
  simp [noOperand]

theorem byteOperand_eq_some_iff {arg : BitVec 32} {f : Byte → Instr} {j : Instr} :
    byteOperand arg f = some j ↔ arg.extractLsb' 8 24 = 0 ∧ f (arg.extractLsb' 0 8) = j := by
  simp [byteOperand]

theorem noOperand_eq_none_iff {arg : BitVec 32} {i : Instr} : noOperand arg i = none ↔ arg ≠ 0 := by
  simp [noOperand]

theorem byteOperand_eq_none_iff {arg : BitVec 32} {f : Byte → Instr} :
    byteOperand arg f = none ↔ arg.extractLsb' 8 24 ≠ 0 := by
  simp [byteOperand]

/-! ### Decoding and encoding are inverses -/

/-- Settles O6, by the operations: the `op` field picks the operation's own branch, and `arg` carries its operand. -/
theorem decodeOfEncodeIsIdentity : Obligations.DecodeOfEncodeIsIdentity := by
  intro i
  cases i with
  | irqRx => rfl
  | _ => simp [encode, decode, decodeWord]

/-- A word whose operand decodes as absent is the one encoding of the operation that takes none. -/
theorem encode_of_noOperand {op : BitVec 4} {arg : BitVec 32} {i j : Instr}
    (he : encode i = .command (.make op 0)) (h : noOperand arg i = some j) : encode j = .command (.make op arg) := by
  obtain ⟨rfl, rfl⟩ := noOperand_eq_some_iff.1 h
  exact he

/-- A word whose operand decodes as a byte is the one encoding of the operation with that byte. -/
theorem encode_of_byteOperand {op : BitVec 4} {arg : BitVec 32} {f : Byte → Instr} {j : Instr}
    (he : ∀ b, encode (f b) = .command (.make op (byteArg b))) (h : byteOperand arg f = some j) :
    encode j = .command (.make op arg) := by
  obtain ⟨hhigh, rfl⟩ := byteOperand_eq_some_iff.1 h
  rw [he, byteArg_of_high_zero hhigh]

theorem encode_of_decodeWord {w : CmdWord} {i : Instr} (h : decodeWord w = some i) : encode i = .command w := by
  rw [← w.make_op_arg]
  unfold decodeWord at h
  split_ifs at h with hop hop hop hop hop hop hop hop <;> rw [hop]
  · exact encode_of_noOperand rfl h
  · exact encode_of_noOperand rfl h
  · obtain rfl := Option.some.inj h
    rfl
  · exact encode_of_noOperand rfl h
  · exact encode_of_byteOperand (fun _ => rfl) h
  · exact encode_of_noOperand rfl h
  · exact encode_of_noOperand rfl h
  · exact encode_of_byteOperand (fun _ => rfl) h

/-- Settles O7: every branch of decoding fixes both fields of the word. -/
theorem encodingIsTheOnlyWord : Obligations.EncodingIsTheOnlyWord := by
  intro x i h
  cases x with
  | command w => exact encode_of_decodeWord h
  | interrupt =>
    obtain rfl := Option.some.inj h
    rfl

/-- Settles O10: R83's words, each by evaluation. -/
theorem workedEncodings : Obligations.WorkedEncodings := by
  unfold Obligations.WorkedEncodings
  decide

/-! ### The reserved words (R74) -/

/-- The values of `op` that the opcode map gives no operation. -/
theorem op_reserved_iff : ∀ op : BitVec 4,
    op ∈ [0x0#4, 0x4#4, 0x5#4, 0x6#4, 0x7#4, 0xD#4, 0xE#4, 0xF#4] ↔
      op ∉ [0x1#4, 0x2#4, 0x3#4, 0x8#4, 0x9#4, 0xA#4, 0xB#4, 0xC#4] := by decide

theorem decodeWord_eq_none_iff (w : CmdWord) : decodeWord w = none ↔
    w.op ∈ [0x0#4, 0x4#4, 0x5#4, 0x6#4, 0x7#4, 0xD#4, 0xE#4, 0xF#4] ∨
      (w.op ∈ [0x1#4, 0x2#4, 0x8#4, 0xA#4, 0xB#4] ∧ w.arg ≠ 0) ∨
      (w.op ∈ [0x9#4, 0xC#4] ∧ w.arg.extractLsb' 8 24 ≠ 0) := by
  unfold decodeWord
  split_ifs with h1 h2 h3 h8 h9 hA hB hC
  case neg =>
    rw [op_reserved_iff]
    simp [*]
  all_goals simp [*, noOperand_eq_none_iff, byteOperand_eq_none_iff]

/-! ### The rows of the opcode table -/

/-- Under a mask that covers the `op` field, a word has the `op` of its row's pattern. -/
theorem op_of_masked {w m p : CmdWord} (hm : m.op = BitVec.allOnes 4) (h : w &&& m = p) : w.op = p.op := by
  calc
    w.op = w.op &&& m.op := by rw [hm, BitVec.and_allOnes]
    _ = (w &&& m).op := BitVec.extractLsb'_and.symm
    _ = p.op := by rw [h]

/-- Under a mask that covers the upper 24 bits of the `arg` field, a word has those of its row's pattern. -/
theorem argHigh_of_masked {w m p : CmdWord} (hm : m.arg.extractLsb' 8 24 = BitVec.allOnes 24) (h : w &&& m = p) :
    w.arg.extractLsb' 8 24 = p.arg.extractLsb' 8 24 := by
  calc
    w.arg.extractLsb' 8 24 = w.arg.extractLsb' 8 24 &&& m.arg.extractLsb' 8 24 := by rw [hm, BitVec.and_allOnes]
    _ = (w &&& m).arg.extractLsb' 8 24 := by simp only [CmdWord.arg, BitVec.extractLsb'_and]
    _ = p.arg.extractLsb' 8 24 := by rw [h]

/-- A word under the whole mask is its row's pattern. -/
theorem eq_pattern_of_masked {w p : CmdWord} (h : w &&& 0xFFFFFFFFF#36 = p) : w = p :=
  (Laws.TableRow.whole_word w).symm.trans h

/-- A word that a row matches decodes: the row's mask covers what decoding looks at. -/
theorem decodes_of_matchesWord {r : OpcodeRow} {w : CmdWord} (hr : r ∈ opcodeRows) (h : w &&& r.mask = r.pattern) :
    ∃ i, decodeWord w = some i := by
  simp only [opcodeRows, List.mem_cons, List.not_mem_nil, or_false] at hr
  rcases hr with rfl | rfl | rfl | rfl | rfl | rfl | rfl | rfl
  · exact ⟨.init, by rw [eq_pattern_of_masked h]; rfl⟩
  · exact ⟨.readKey, by rw [eq_pattern_of_masked h]; rfl⟩
  · have hop : w.op = 0x3#4 := op_of_masked rfl h
    exact ⟨.writeKey w.arg, by simp [decodeWord, hop]⟩
  · exact ⟨.tRbReset, by rw [eq_pattern_of_masked h]; rfl⟩
  · have hop : w.op = 0x9#4 := op_of_masked rfl h
    have hhigh : w.arg.extractLsb' 8 24 = 0 := argHigh_of_masked rfl h
    exact ⟨.tRbTryPush (w.arg.extractLsb' 0 8), by simp [decodeWord, hop, byteOperand, hhigh]⟩
  · exact ⟨.tRbIsEmpty, by rw [eq_pattern_of_masked h]; rfl⟩
  · exact ⟨.tRbPop, by rw [eq_pattern_of_masked h]; rfl⟩
  · have hop : w.op = 0xC#4 := op_of_masked rfl h
    have hhigh : w.arg.extractLsb' 8 24 = 0 := argHigh_of_masked rfl h
    exact ⟨.tTxByte (w.arg.extractLsb' 0 8), by simp [decodeWord, hop, byteOperand, hhigh]⟩

theorem encode_matchesRow (i : Instr) : Laws.TableRow.matchesRow (Laws.TableRow.mnemonic i) (encode i) := by
  cases i with
  | init => exact Laws.TableRow.init
  | readKey => exact Laws.TableRow.readKey
  | writeKey code => exact Laws.TableRow.writeKey code
  | tRbReset => exact Laws.TableRow.tRbReset
  | tRbTryPush b => exact Laws.TableRow.tRbTryPush b
  | tRbIsEmpty => exact Laws.TableRow.tRbIsEmpty
  | tRbPop => exact Laws.TableRow.tRbPop
  | tTxByte b => exact Laws.TableRow.tTxByte b
  | irqRx => exact Laws.TableRow.irqRx

theorem legal_iff {w : CmdWord} : w.legal = true ↔ ∃ r ∈ opcodeRows, w &&& r.mask = r.pattern := by
  simp only [CmdWord.legal, OpcodeRow.matchesWord, List.any_eq_true, beq_iff_eq]

/-- A word that decodes is its operation's encoding (O7), which the operation's own row matches. -/
theorem legal_of_decodeWord {w : CmdWord} {i : Instr} (h : decodeWord w = some i) : w.legal = true := by
  have hrow := encode_matchesRow i
  rw [encode_of_decodeWord h] at hrow
  obtain ⟨r, hr, -, hw⟩ := hrow
  exact legal_iff.2 ⟨r, hr, hw⟩

/-- Settles O9: a row's mask covers what decoding looks at, and a word that decodes is an encoding, which its
operation's row matches. -/
theorem decodableWordsAreTheTableRows : Obligations.DecodableWordsAreTheTableRows := by
  intro w
  refine ⟨⟨fun h => ?_, fun ⟨i, h⟩ => legal_of_decodeWord h⟩, fun h => Machine.decodeWord_ne_irqRx h rfl⟩
  obtain ⟨r, hr, hw⟩ := legal_iff.1 h
  exact decodes_of_matchesWord hr hw

end Sys2Proof
end

section
/-! Acceptance (R77): what a foreground step of a ready block does with the word on its port, and that a word waits
while the block is not ready; the lemmas and the proofs of the statements about them. -/

namespace Sys2Proof.Machine

/-! ### A ready block takes the word on its port -/

theorem runMove_accepts {s : State} {w : CmdWord} (d : Bool) (hr : s.cmdReady = true) (hp : s.port = some w) :
    runMove (.foreground d) s = acceptWord w s := by
  obtain ⟨hidle, hisr, hfault⟩ := cmdReady_iff.1 hr
  rw [runMove_foreground hfault hisr]
  simp only [hidle, hp]

theorem step_accepts {s : State} {d : Bool} {w : CmdWord} (ha : s.cfg.Admitted) (hr : s.cmdReady = true)
    (hm : s.nextMove = .foreground d) (hp : s.port = some w) : step s = acceptWord w s.advance := by
  rw [step_of_nextMove ha hm]
  exact runMove_accepts (s := s.advance) d hr hp

theorem acceptWord_decoded {w : CmdWord} {i : Instr} (hd : decode (.command w) = some i) (s : State) :
    acceptWord w s = exec i (takeCommand s) := by simp only [acceptWord, hd]

theorem acceptWord_reserved {w : CmdWord} {s : State} (hr : s.cmdReady = true) (hd : decode (.command w) = none) :
    acceptWord w s = .next (raise .illegalCmd (clearRsp (takeCommand s))) := by
  have hr' : (takeCommand s).cmdReady = true := hr
  simp only [acceptWord, hd, acceptReserved, accept_ready hr']

/-- Settles O8: the words by the branches of decoding, and the step by the acceptance of a reserved word. -/
theorem reservedWordsRaiseIllegalCmd : Obligations.ReservedWordsRaiseIllegalCmd := by
  refine ⟨decodeWord_eq_none_iff, fun s d w ha hr hm hp hd => ?_⟩
  rw [step_accepts ha hr hm hp]
  exact acceptWord_reserved (s := s.advance) hr hd

/-- Settles O11: the foreground's step is the acceptance of the word, the interrupt agent's the event. -/
theorem stepRunsTheDecodedOperation : Obligations.StepRunsTheDecodedOperation := by
  refine ⟨fun s d w i ha hr hm hp hd => ?_, fun s ha hf hi hm => ?_⟩
  · rw [step_accepts ha hr hm hp]
    exact acceptWord_decoded hd s.advance
  · have hi' : s.advance.isrActive = false := hi
    rw [step_of_nextMove ha hm, runMove_interrupt (s := s.advance) hf, hi']
    rfl

/-! ### A placed table word (log 12) -/

/-- The event row has no bits and stands for IRQ_RX; a command's row has the word that decodes. -/
theorem decodeTableWord_cases {nbits w : Nat} {i : Instr} (h : decodeTableWord nbits w = some i) :
    (nbits = 0 ∧ i = .irqRx) ∨ (nbits ≠ 0 ∧ decode (.command (BitVec.ofNat 36 w)) = some i) := by
  unfold decodeTableWord at h
  split_ifs at h with hn hw
  · exact .inl ⟨hn, (Option.some.inj h).symm⟩
  · exact .inr ⟨hn, h⟩

theorem withFetchWord_event (s : State) (w : Nat) :
    s.withFetchWord 0 w = { s with agenda := .interrupt :: s.agenda } := rfl

theorem withFetchWord_command {nbits : Nat} (hn : nbits ≠ 0) (s : State) (w : Nat) :
    s.withFetchWord nbits w =
      { s with port := some (BitVec.ofNat 36 w), agenda := .foreground false :: s.agenda } := by
  simp [State.withFetchWord, placeTableWord, hn]

/-- Settles O12, by O11: the placed word's move is the coming one, and the step takes it off the agenda. -/
theorem placedTableWordRunsNext : Obligations.PlacedTableWordRunsNext := by
  intro s nbits w i ha hr h
  obtain ⟨runsWord, runsEvent⟩ := stepRunsTheDecodedOperation
  rcases decodeTableWord_cases h with ⟨rfl, rfl⟩ | ⟨hn, hd⟩
  · obtain ⟨-, hisr, hfault⟩ := cmdReady_iff.1 hr
    rw [withFetchWord_event]
    exact runsEvent _ ha hfault hisr rfl
  · rw [withFetchWord_command hn, if_neg hn]
    exact runsWord _ false _ i ha hr rfl rfl hd

/-! ### A command waits until the block is ready -/

/-- Log 8: a command of a block that is not ready changes nothing. -/
theorem exec_waits {i : Instr} {s : State} (hi : i ≠ .irqRx) (h : s.cmdReady = false) : exec i s = .next s := by
  cases i with
  | irqRx => exact absurd rfl hi
  | _ =>
    simp only [exec, execInit, execReadKey, execWriteKey, execTRbReset, execTRbTryPush, execTRbIsEmpty, execTRbPop,
      execTTxByte, accept_waits h]

theorem acceptWord_answers (w : CmdWord) {s : State} (hr : s.cmdReady = true) (hh : s.rbHead < s.cfg.N)
    (ht : s.rbTail < s.cfg.N) : ∃ t, acceptWord w s = .next t := by
  cases hd : decode (.command w) with
  | none => exact ⟨_, acceptWord_reserved hr hd⟩
  | some i =>
    rw [acceptWord_decoded hd]
    exact exec_answers i (s := takeCommand s) hr hh ht

/-- With the indices in range, the foreground's move of a block without a fault answers a next state. -/
theorem runMove_foreground_answers {s : State} (d : Bool) (hf : s.fault = none) (hh : s.rbHead < s.cfg.N)
    (ht : s.rbTail < s.cfg.N) : ∃ t, runMove (.foreground d) s = .next t := by
  cases he : s.fgEnabled with
  | false => exact ⟨s, runMove_foreground_holds d hf he⟩
  | true =>
    have hi : s.isrActive = false := by simp_all [State.fgEnabled]
    rw [runMove_foreground hf hi]
    cases hp : s.fg with
    | idle =>
      cases hw : s.port with
      | none => exact ⟨s, rfl⟩
      | some w => exact acceptWord_answers w (cmdReady_iff.2 ⟨hp, hi, hf⟩) hh ht
    | readKey acc => rcases readKeyStep_cases acc ht with ⟨-, -, e⟩ | ⟨-, e⟩ <;> exact ⟨_, e⟩
    | tx q v => exact ⟨_, rfl⟩
    | halted => exact ⟨s, rfl⟩

theorem CommandEffect.keeps_port {i : Instr} {s t : State} (h : CommandEffect s i t) : t.port = s.port := by
  cases h <;> rfl

/-- Log 3: a ready block's foreground move takes the word off the port. -/
theorem MoveEffect.foreground_takes_word {d : Bool} {s t : State} {w : CmdWord} (h : MoveEffect s (.foreground d) t)
    (hr : s.cmdReady = true) (hp : s.port = some w) : t.port = none := by
  obtain ⟨hidle, hisr, -⟩ := cmdReady_iff.1 hr
  cases h with
  | reserved => rfl
  | command _ _ _ _ _ _ _ he => exact he.keeps_port
  | fgHold _ _ hw => simp [hidle, hisr, hp] at hw
  | iterate _ _ _ _ hfg => simp [hidle] at hfg
  | finish _ _ _ _ hfg => simp [hidle] at hfg
  | txWrite _ _ _ _ _ _ hfg => simp [hidle] at hfg
  | txDone _ _ _ _ hfg => simp [hidle] at hfg

/-- R77: the foreground's move of a block that is not ready leaves the port, and records no fault. -/
theorem MoveEffect.foreground_leaves_word {d : Bool} {s t : State} (h : MoveEffect s (.foreground d) t)
    (hr : s.cmdReady = false) (hf : s.fault = none) : t.port = s.port ∧ t.fault = none := by
  cases h with
  | reserved _ _ hready => simp [hr] at hready
  | command _ _ _ _ hready => simp [hr] at hready
  | _ => exact ⟨rfl, hf⟩

/-- Settles O13: the foreground's step answers by the invariant's index ranges, and its effect takes the word in a
ready block and leaves it in any other. -/
theorem commandWaitsUntilReady : Obligations.CommandWaitsUntilReady := by
  refine ⟨fun _ => cmdReady_iff, fun _ _ => exec_waits, fun s d w hinv hm hp hf => ?_⟩
  obtain ⟨t, ht⟩ := runMove_foreground_answers (s := s.advance) d hf hinv.headInRange hinv.tailInRange
  have he : MoveEffect s.advance (.foreground d) t := runMove_effect ht
  refine ⟨t, (step_of_nextMove hinv.admitted hm).trans ht, ?_⟩
  cases hr : s.cmdReady with
  | true => simp [he.foreground_takes_word hr hp]
  | false =>
    obtain ⟨hport, hfault⟩ := he.foreground_leaves_word hr hf
    replace hport : t.port = some w := hport.trans hp
    simp [hport, hfault]

end Sys2Proof.Machine
end

section
/-! The invariant: what each update of the state asks to keep it, and that every command and every move therefore
does; the lemmas and the proof of the statement about every step. -/

namespace Sys2Proof.Machine

/-! ### The updates that no part of the invariant looks at -/

theorem State.Inv.advance {s : State} (h : s.Inv) : s.advance.Inv := { h with }

theorem State.Inv.takeCommand {s : State} (h : s.Inv) : (takeCommand s).Inv := { h with }

theorem State.Inv.devWriteData {s : State} (h : s.Inv) (b : Byte) (d : Bool) : (devWriteData b d s).Inv :=
  { h with }

/-- What the environment, the caller and the producer's drain drive (R31, R33, R70, R122). -/
theorem State.Inv.driven {s : State} (h : s.Inv) (q : List Byte) (busy : Bool) (cmd : Option CmdWord) :
    State.Inv { s with rxq := q, txBusy := busy, port := cmd } := { h with }

/-! ### The ring -/

/-- R102: the byte stored at the head, and the head moved on. -/
theorem State.Inv.push {s : State} (h : s.Inv) (b : Byte) :
    State.Inv { s with rbMem := Memory.write s.rbMem s.rbHead b, rbHead := s.nextIndex s.rbHead } :=
  { h with
    memWf := Memory.write_wf h.memWf s.rbHead b
    memWithin := Memory.write_within h.memWithin h.headInRange b
    headInRange := nextIndex_lt h.admitted.capacity s.rbHead }

/-- R104: the tail moved on. -/
theorem State.Inv.pop {s : State} (h : s.Inv) : State.Inv { s with rbTail := s.nextIndex s.rbTail } :=
  { h with tailInRange := nextIndex_lt h.admitted.capacity s.rbTail }

theorem State.Inv.rbReset {s : State} (h : s.Inv) : (rbReset s).Inv :=
  { h with
    headInRange := h.admitted.capacity
    tailInRange := h.admitted.capacity
    armedValid := fun _ => rfl }

/-! ### The phase, the fault and the response -/

theorem State.Inv.clearRsp {s : State} (h : s.Inv) : (clearRsp s).Inv := { h with rspIdle := by simp }

theorem State.Inv.respond {s : State} (h : s.Inv) (hf : s.fault = none) (v : BitVec 32) : (respond v s).Inv :=
  { h with
    phase := rfl
    faultHalts := by simp [hf]
    rspIdle := fun _ => rfl }

/-- R200: a fault is recorded outside the handler, with no response standing. -/
theorem State.Inv.raise {s : State} (h : s.Inv) (hi : s.isrActive = false) (hv : s.rspValid = false)
    (c : FaultCode) : (raise c s).Inv :=
  { h with
    phase := rfl
    faultHalts := by simp
    isrNoFault := by simp [hi]
    rspIdle := by simp [hv] }

/-- A command's next phase, while it has not responded. -/
theorem State.Inv.with_phase {s : State} {p : Phase} (h : s.Inv) (hf : s.fault = none) (hv : s.rspValid = false)
    (hp : p ≠ .halted) (hk : phaseKept s.cfg s.initDone p = true) : State.Inv { s with fg := p } :=
  { h with
    phase := hk
    faultHalts := by simp [hf, hp]
    rspIdle := by simp [hv] }

theorem State.Inv.rspValid_of_busy {s : State} {p : Phase} (h : s.Inv) (hp : s.fg = p) (hne : p ≠ .idle) :
    s.rspValid = false :=
  Bool.eq_false_iff.2 fun hv => hne (hp.symm.trans (h.rspIdle hv))

/-! ### The marks of INIT and the handler -/

/-- R190: INIT sets the ring's mark and the three others together. -/
theorem State.Inv.initMarks {s : State} (h : s.Inv) (hp : s.fg = .idle) :
    (markInitDone (armProducer (devWriteIe (Machine.rbReset s)))).Inv :=
  { h.rbReset with
    phase := by simp [hp, phaseKept]
    initArms := rfl
    armedEnables := rfl
    armedValid := fun _ => rfl
    isrArmed := fun _ => rfl }

theorem irqTakeable_iff {s : State} :
    s.irqTakeable = true ↔ s.irqPending = true ∧ s.isrActive = false ∧ s.fault = none := by
  simp [State.irqTakeable, and_assoc]

theorem irqPending_iff {s : State} :
    s.irqPending = true ↔ s.devReadRxPend = true ∧ s.rxIrqEn = true ∧ s.irqArmed = true := by
  simp [State.irqPending, and_assoc]

theorem State.Inv.enterIsr {s : State} (h : s.Inv) (ht : s.irqTakeable = true) : (enterIsr s).Inv := by
  obtain ⟨hpending, -, hfault⟩ := irqTakeable_iff.1 ht
  obtain ⟨-, -, harmed⟩ := irqPending_iff.1 hpending
  exact { h with isrArmed := fun _ => harmed, isrNoFault := fun _ => hfault }

theorem State.Inv.exitIsr {s : State} (h : s.Inv) : (exitIsr s).Inv :=
  { h with isrArmed := by simp, isrNoFault := by simp }

/-! ### The bounds of a phase (R64, R147) -/

/-- R170: what is transmitted for a code is one byte or a table entry's sequence. -/
theorem encodeKey_length_le {c : Config} (hc : c.Admitted) (k : KeyCode) :
    (encodeKey c.table k).length ≤ c.maxSeqLen := by
  rcases codeLookup_cases c.table k with ⟨e, he, -, hlookup⟩ | ⟨-, hlookup⟩
  · simpa [encodeKey, hlookup] using hc.seq_length he
  · simpa [encodeKey, hlookup] using hc.maxSeqLen

theorem phaseKept_tx {c : Config} {q : List Byte} (hq : q.length ≤ c.maxSeqLen) (initDone : Bool) :
    phaseKept c initDone (.tx q 0) = true := by simp [phaseKept, hq]

theorem State.Inv.tx_bounds {s : State} {q : List Byte} {v : KeyCode} (h : s.Inv) (hp : s.fg = .tx q v) :
    q.length ≤ s.cfg.maxSeqLen ∧ v = 0 := by
  simpa [phaseKept, hp] using h.phase

/-- R140: a session goes on while there is a byte to take and the table leaves it open. -/
theorem continues_eq (s : State) (acc : List Byte) :
    s.continues acc = (!s.ringEmpty && sessionOpen s.cfg.table acc) := Bool.and_assoc _ _ _

/-- R147: an open session has room for one more byte, since it is empty or shorter than some entry. -/
theorem length_lt_of_sessionOpen {c : Config} (hc : c.Admitted) {acc : List Byte}
    (h : sessionOpen c.table acc = true) : acc.length < c.maxSeqLen := by
  simp only [sessionOpen, Bool.and_eq_true, Bool.or_eq_true, List.isEmpty_iff] at h
  obtain ⟨hstart, -⟩ := h
  rcases hstart with rfl | hstart
  · exact hc.maxSeqLen
  · obtain ⟨e, he, hlt, -⟩ := strictPrefixAny_iff.1 hstart
    exact Nat.lt_of_lt_of_le hlt (hc.seq_length he)

theorem phaseKept_iterate {s : State} {acc : List Byte} (h : s.Inv) (hp : s.fg = .readKey acc)
    (hc : s.continues acc = true) (b : Byte) : phaseKept s.cfg s.initDone (.readKey (acc ++ [b])) = true := by
  have hinit : s.initDone = true := by
    have hkept := h.phase
    simp only [hp, phaseKept, Bool.and_eq_true] at hkept
    obtain ⟨⟨hinit, -⟩, -⟩ := hkept
    exact hinit
  rw [continues_eq, Bool.and_eq_true] at hc
  obtain ⟨-, hopen⟩ := hc
  have hroom : acc.length + 1 ≤ s.cfg.maxSeqLen := length_lt_of_sessionOpen h.admitted hopen
  simp [phaseKept, hinit, hroom, hopen]

/-! ### Every command and every move -/

theorem CommandEffect.keeps_inv {i : Instr} {s t : State} (h : CommandEffect s i t) (hs : s.Inv)
    (hr : s.cmdReady = true) : t.Inv := by
  obtain ⟨hidle, hisr, hfault⟩ := cmdReady_iff.1 hr
  have hc : (clearRsp s).Inv := hs.clearRsp
  cases h with
  | raised i c => exact hc.raise hisr rfl c
  | init => exact (hc.initMarks hidle).respond hfault 0
  | readKey hd => exact hc.with_phase hfault rfl (by simp) (by simp [phaseKept, hd])
  | writeKey code =>
    exact hc.with_phase hfault rfl (by simp) (phaseKept_tx (encodeKey_length_le hs.admitted code) _)
  | tTxByte b => exact hc.with_phase hfault rfl (by simp) (phaseKept_tx (q := [b]) hs.admitted.maxSeqLen _)
  | tRbReset => exact hc.rbReset.respond hfault 0
  | pushFull => exact hc.respond hfault 0
  | pushStore b => exact (hc.push b).respond hfault 1
  | tRbIsEmpty => exact hc.respond hfault _
  | tRbPop => exact hc.pop.respond hfault _

theorem MoveEffect.keeps_inv {m : Move} {s t : State} (h : MoveEffect s m t) (hs : s.Inv) : t.Inv := by
  cases h with
  | envRx | envTxBusy | caller => exact hs.driven _ _ _
  | fgHold | irqHold => exact hs
  | reserved d w hr =>
    obtain ⟨-, hisr, -⟩ := cmdReady_iff.1 hr
    exact hs.takeCommand.clearRsp.raise hisr rfl .illegalCmd
  | command d w i _ hr hp hd he => exact he.keeps_inv hs.takeCommand hr
  | iterate d acc hf hi hp hc =>
    have hv := hs.rspValid_of_busy hp (by simp)
    exact hs.pop.with_phase hf hv (by simp) (phaseKept_iterate hs hp hc _)
  | finish d acc hf => exact hs.respond hf _
  | txWrite d b rest v hf hi hp =>
    have hv := hs.rspValid_of_busy hp (by simp)
    obtain ⟨hlen, rfl⟩ := hs.tx_bounds hp
    have hrest : rest.length ≤ s.cfg.maxSeqLen := Nat.le_of_succ_le hlen
    exact (hs.devWriteData b d).with_phase hf hv (by simp) (phaseKept_tx hrest _)
  | txDone d v hf => exact hs.respond hf v
  | enter ht => exact hs.enterIsr ht
  | drainFull b rest => exact hs.driven rest _ _
  | drainStore b rest => exact (hs.driven rest s.txBusy s.port).push b
  | exit => exact hs.exitIsr

/-- Settles O3: a step is its move's effect, and every update that an effect is made of keeps the invariant. -/
theorem everyStepKeepsTheInvariant : Obligations.EveryStepKeepsTheInvariant := by
  intro s t hs h
  obtain ⟨-, he⟩ := step_effect h
  exact he.keeps_inv hs.advance

end Sys2Proof.Machine
end

section
/-! The four commands over the ring (R106 to R109): the step of each in a ready block, what it does to the bytes
in the ring, and commands run back to back; the lemmas and the proofs of the statements about them. -/

namespace Sys2Proof.Machine

/-! ### The commands' results -/

/-- T_RB_TRY_PUSH's state after it has stored its byte (R102, R107). -/
def pushedState (b : Byte) (s : State) : State :=
  respond 1 { clearRsp s with rbMem := Memory.write s.rbMem s.rbHead b, rbHead := s.nextIndex s.rbHead }

/-- T_RB_POP's state after it has answered the oldest byte (R104, R109). -/
def poppedState (s : State) : State :=
  respond (zext32 (Memory.read s.rbMem s.rbTail)) { clearRsp s with rbTail := s.nextIndex s.rbTail }

theorem boolResponse_ringEmpty (s : State) :
    boolResponse s.ringEmpty = if s.rbHead = s.rbTail then 1 else 0 := by simp [boolResponse, State.ringEmpty]

section
variable {s : State} (hr : s.cmdReady = true)
include hr

theorem execTRbReset_armed (ha : s.irqArmed = true) : exec .tRbReset s = .next (raise .spsc (clearRsp s)) := by
  simp [execTRbReset_ready hr, ha]

theorem execTRbReset_unarmed (ha : s.irqArmed = false) :
    exec .tRbReset s = .next (respond 0 (rbReset (clearRsp s))) := by simp [execTRbReset_ready hr, ha]

theorem execTRbTryPush_armed (b : Byte) (ha : s.irqArmed = true) :
    exec (.tRbTryPush b) s = .next (raise .spsc (clearRsp s)) := by simp [execTRbTryPush_ready hr, ha]

theorem execTRbTryPush_invalid (b : Byte) (ha : s.irqArmed = false) (hv : s.rbValid = false) :
    exec (.tRbTryPush b) s = .next (raise .notInit (clearRsp s)) := by simp [execTRbTryPush_ready hr, ha, hv]

theorem execTRbTryPush_full (b : Byte) (ha : s.irqArmed = false) (hv : s.rbValid = true)
    (hf : s.ringFull = true) : exec (.tRbTryPush b) s = .next (respond 0 (clearRsp s)) := by
  simp [execTRbTryPush_ready hr, ha, hv, rbTryPush, hf, Result.andThen_next, boolResponse]

theorem execTRbTryPush_stored (b : Byte) (ha : s.irqArmed = false) (hv : s.rbValid = true)
    (hf : s.ringFull = false) (hh : s.rbHead < s.cfg.N) :
    exec (.tRbTryPush b) s = .next (pushedState b s) := by
  have hpush : rbTryPush b (clearRsp s) = .next ({ clearRsp s with
      rbMem := Memory.write s.rbMem s.rbHead b, rbHead := s.nextIndex s.rbHead }, true) := by
    rcases rbTryPush_cases b (s := clearRsp s) hh with ⟨hfull, -⟩ | ⟨-, e⟩
    · simp [hf] at hfull
    · exact e
  simp [execTRbTryPush_ready hr, ha, hv, hpush, Result.andThen_next, boolResponse, pushedState]

theorem execTRbIsEmpty_invalid (hv : s.rbValid = false) :
    exec .tRbIsEmpty s = .next (raise .notInit (clearRsp s)) := by simp [execTRbIsEmpty_ready hr, hv]

theorem execTRbIsEmpty_valid (hv : s.rbValid = true) :
    exec .tRbIsEmpty s = .next (respond (boolResponse s.ringEmpty) (clearRsp s)) := by
  simp [execTRbIsEmpty_ready hr, hv]

theorem execTRbPop_invalid (hv : s.rbValid = false) : exec .tRbPop s = .next (raise .notInit (clearRsp s)) := by
  simp [exec, execTRbPop, accept_ready hr, hv]

theorem execTRbPop_empty (hv : s.rbValid = true) (he : s.ringEmpty = true) :
    exec .tRbPop s = .next (raise .popEmpty (clearRsp s)) := by
  simp [exec, execTRbPop, accept_ready hr, hv, rbPop, he, Result.andThen_next]

theorem execTRbPop_taken (hv : s.rbValid = true) (he : s.ringEmpty = false) (ht : s.rbTail < s.cfg.N) :
    exec .tRbPop s = .next (poppedState s) := by
  rcases execTRbPop_cases hr ht with ⟨hv', -⟩ | ⟨-, he', -⟩ | ⟨-, -, e⟩
  · simp [hv] at hv'
  · simp [he] at he'
  · exact e

end

/-- Settles O19: the two cases of the command. -/
theorem ringResetCommandResult : Obligations.RingResetCommandResult := by
  refine ⟨fun w hop => by simp [decode, decodeWord, hop, noOperand], fun s hr => ⟨?_, ?_⟩⟩
  · exact execTRbReset_unarmed hr
  · exact execTRbReset_armed hr

/-- Settles O20: the four cases of the command, the index after the head being R25's test for a full ring. -/
theorem tryPushCommandResult : Obligations.TryPushCommandResult := by
  refine ⟨fun w hop => by simp [decode, decodeWord, hop, byteOperand], fun s b hr hh => ⟨?_, ?_, ?_, ?_⟩⟩
  · exact execTRbTryPush_armed hr b
  · exact execTRbTryPush_invalid hr b
  · exact fun ha hv hfull => execTRbTryPush_full hr b ha hv (decide_eq_true hfull)
  · exact fun ha hv hroom => execTRbTryPush_stored hr b ha hv (decide_eq_false hroom) hh

/-- Settles O21: the two cases of the command, whose test compares the indices. -/
theorem isEmptyCommandResult : Obligations.IsEmptyCommandResult := by
  refine ⟨fun w hop => by simp [decode, decodeWord, hop, noOperand], fun s hr => ⟨fun hv => ?_, ?_⟩⟩
  · rw [execTRbIsEmpty_valid hr hv, boolResponse_ringEmpty]
    rfl
  · exact execTRbIsEmpty_invalid hr

/-- Settles O22: the three cases of the command. -/
theorem popCommandResult : Obligations.PopCommandResult := by
  refine ⟨fun w hop => by simp [decode, decodeWord, hop, noOperand], fun s hr ht => ⟨?_, ?_, ?_⟩⟩
  · exact execTRbPop_invalid hr
  · exact fun hv hempty => execTRbPop_empty hr hv (decide_eq_true hempty)
  · exact fun hv hne => execTRbPop_taken hr hv (decide_eq_false hne) ht

/-! ### A push and a pop on the contents -/

theorem ringFull_iff_contents_length {s : State} (hs : s.Inv) :
    s.ringFull = true ↔ s.contents.length = s.cfg.N - 1 := by
  rw [contents_length, ← nextIndex_head_eq_tail_iff_ringCount hs.headInRange hs.tailInRange]
  exact decide_eq_true_iff

theorem ringFull_of_room {s : State} (hs : s.Inv) (h : s.contents.length < s.cfg.N - 1) : s.ringFull = false :=
  Bool.eq_false_iff.2 fun hf => Nat.ne_of_lt h ((ringFull_iff_contents_length hs).1 hf)

theorem ringEmpty_of_contents {s : State} (hs : s.Inv) {b : Byte} {rest : List Byte}
    (h : s.contents = b :: rest) : s.ringEmpty = false :=
  Bool.eq_false_iff.2 fun he => by
    simp [(contents_nil_iff hs.headInRange hs.tailInRange).2 he] at h

theorem pushedState_contents {s : State} (hs : s.Inv) (hf : s.ringFull = false) (b : Byte) :
    (pushedState b s).contents = s.contents ++ [b] :=
  contents_push hs.memWf hs.headInRange hs.tailInRange hf b

/-- The byte that T_RB_POP answers is the contents' first, and it leaves the others. -/
theorem poppedState_contents {s : State} (hs : s.Inv) {b : Byte} {rest : List Byte} (h : s.contents = b :: rest) :
    (poppedState s).rspData = b.setWidth 32 ∧ (poppedState s).contents = rest := by
  have hpop := contents_pop hs.headInRange hs.tailInRange (ringEmpty_of_contents hs h)
  obtain ⟨rfl, rfl⟩ := List.cons.inj (h.symm.trans hpop)
  exact ⟨rfl, rfl⟩

/-- Settles O34: the commands' cases, chosen by how many bytes the ring holds. -/
theorem pushAppendsAndPopTakesTheOldest : Obligations.PushAppendsAndPopTakesTheOldest := by
  intro s hs hr hv
  refine ⟨fun b ha hroom => ?_, fun b ha hfull => ?_, fun b rest hc => ?_⟩
  · have hf := ringFull_of_room hs hroom
    exact ⟨_, execTRbTryPush_stored hr b ha hv hf hs.headInRange, rfl, rfl, pushedState_contents hs hf b,
      Memory.read_write_same hs.memWf _ b, fun a hne => Memory.read_write_other hs.memWf b hne⟩
  · have hf := (ringFull_iff_contents_length hs).2 hfull
    exact ⟨_, execTRbTryPush_full hr b ha hv hf, rfl, rfl, rfl, rfl⟩
  · obtain ⟨hdata, hrest⟩ := poppedState_contents hs hc
    have he := ringEmpty_of_contents hs hc
    exact ⟨_, execTRbPop_taken hr hv he hs.tailInRange, rfl, hdata, hrest, rfl, rfl⟩

/-! ### Commands back to back -/

/-- A block of capacity `n` that carries out the pushes and pops of the test harness. -/
structure State.RingReady (n : Nat) (s : State) : Prop where
  inv : s.Inv
  ready : s.cmdReady = true
  disarmed : s.irqArmed = false
  valid : s.rbValid = true
  capacity : s.cfg.N = n

/-- A ring command that responds leaves the block ready for the next. -/
theorem respond_ringReady {n : Nat} {t : State} (ht : t.Inv) (hi : t.isrActive = false) (hf : t.fault = none)
    (ha : t.irqArmed = false) (hv : t.rbValid = true) (hn : t.cfg.N = n) (v : BitVec 32) :
    (respond v t).RingReady n :=
  ⟨ht.respond hf v, cmdReady_iff.2 ⟨rfl, hi, hf⟩, ha, hv, hn⟩

section
variable {n : Nat} {s : State} (h : s.RingReady n)
include h

/-- R102: with room for the byte, a push answers 1 and appends it. -/
theorem State.RingReady.push (hroom : s.contents.length < n - 1) (b : Byte) :
    ∃ t, exec (.tRbTryPush b) s = .next t ∧ t.rspData = 1 ∧ t.contents = s.contents ++ [b] ∧ t.RingReady n := by
  obtain ⟨-, hisr, hfault⟩ := cmdReady_iff.1 h.ready
  have hf : s.ringFull = false := ringFull_of_room h.inv (by rwa [h.capacity])
  exact ⟨_, execTRbTryPush_stored h.ready b h.disarmed h.valid hf h.inv.headInRange, rfl,
    pushedState_contents h.inv hf b,
    respond_ringReady (h.inv.clearRsp.push b) hisr hfault h.disarmed h.valid h.capacity 1⟩

/-- R102: a push of a full ring answers 0 and leaves the bytes. -/
theorem State.RingReady.push_refused (hfull : s.contents.length = n - 1) (b : Byte) :
    ∃ t, exec (.tRbTryPush b) s = .next t ∧ t.rspData = 0 ∧ t.contents = s.contents ∧ t.RingReady n := by
  obtain ⟨-, hisr, hfault⟩ := cmdReady_iff.1 h.ready
  have hf : s.ringFull = true := (ringFull_iff_contents_length h.inv).2 (by rwa [h.capacity])
  exact ⟨_, execTRbTryPush_full h.ready b h.disarmed h.valid hf, rfl, rfl,
    respond_ringReady h.inv.clearRsp hisr hfault h.disarmed h.valid h.capacity 0⟩

/-- R104: a pop answers the oldest byte and leaves the others. -/
theorem State.RingReady.pop {b : Byte} {rest : List Byte} (hc : s.contents = b :: rest) :
    ∃ t, exec .tRbPop s = .next t ∧ t.rspData = b.setWidth 32 ∧ t.contents = rest ∧ t.RingReady n := by
  obtain ⟨-, hisr, hfault⟩ := cmdReady_iff.1 h.ready
  obtain ⟨hdata, hrest⟩ := poppedState_contents h.inv hc
  exact ⟨_, execTRbPop_taken h.ready h.valid (ringEmpty_of_contents h.inv hc) h.inv.tailInRange, hdata, hrest,
    respond_ringReady h.inv.clearRsp.pop hisr hfault h.disarmed h.valid h.capacity _⟩

end

theorem execAll_cons {i : Instr} {is : List Instr} {s u t : State} {rs : List (BitVec 32)}
    (hi : exec i s = .next u) (his : execAll is u = .next (t, rs)) :
    execAll (i :: is) s = .next (t, u.rspData :: rs) := by
  simp [execAll, hi, his, Result.andThen_next]

theorem execAll_append {is js : List Instr} {s u t : State} {rs qs : List (BitVec 32)}
    (his : execAll is s = .next (u, rs)) (hjs : execAll js u = .next (t, qs)) :
    execAll (is ++ js) s = .next (t, rs ++ qs) := by
  induction is generalizing s rs with
  | nil =>
    obtain ⟨rfl, rfl⟩ : s = u ∧ [] = rs := by simpa [execAll] using his
    exact hjs
  | cons i is ih =>
    obtain ⟨v, hi, hrest⟩ := andThen_inv his
    obtain ⟨⟨u', rs'⟩, hrun, he⟩ := andThen_inv hrest
    obtain ⟨rfl, rfl⟩ : u' = u ∧ v.rspData :: rs' = rs := by simpa using he
    exact execAll_cons hi (ih hrun)

/-- Pushes that fit all answer 1 and leave their bytes at the end, in order. -/
theorem State.RingReady.pushAll {n : Nat} (bs : List Byte) {s : State} (h : s.RingReady n)
    (hroom : s.contents.length + bs.length ≤ n - 1) :
    ∃ t, execAll (bs.map .tRbTryPush) s = .next (t, List.replicate bs.length 1) ∧
      t.contents = s.contents ++ bs ∧ t.RingReady n := by
  induction bs generalizing s with
  | nil => exact ⟨s, rfl, by simp, h⟩
  | cons b bs ih =>
    rw [List.length_cons] at hroom
    obtain ⟨u, hexec, hdata, hc, hu⟩ := h.push (by omega) b
    obtain ⟨t, hrun, hct, ht⟩ := ih hu (by simp only [hc, List.length_append, List.length_singleton]; omega)
    refine ⟨t, ?_, by simp [hct, hc], ht⟩
    simpa [List.replicate_succ, hdata] using execAll_cons hexec hrun

/-- As many pops as there are bytes answer them all, oldest first, and empty the ring. -/
theorem State.RingReady.popAll {n : Nat} (bs : List Byte) {s : State} (h : s.RingReady n) (hc : s.contents = bs) :
    ∃ t, execAll (List.replicate bs.length .tRbPop) s = .next (t, bs.map fun c => c.setWidth 32) ∧
      t.contents = [] := by
  induction bs generalizing s with
  | nil => exact ⟨s, rfl, hc⟩
  | cons b bs ih =>
    obtain ⟨u, hexec, hdata, hcu, hu⟩ := h.pop hc
    obtain ⟨t, hrun, hct⟩ := ih hu hcu
    refine ⟨t, ?_, hct⟩
    simpa [List.replicate_succ, hdata] using execAll_cons hexec hrun

/-- Settles O35: the pushes fill the ring, the pop makes room for one byte, and the pops empty it. -/
theorem capacityAndRecovery : Obligations.CapacityAndRecovery := by
  intro s b bs x y hs hr ha hv hempty hlen
  have h : s.RingReady s.cfg.N := ⟨hs, hr, ha, hv, rfl⟩
  obtain ⟨f, hfill, hcf, hf⟩ := h.pushAll (b :: bs) (by simp [hempty, hlen])
  replace hcf : f.contents = b :: bs := by simpa [hempty] using hcf
  obtain ⟨t, hrefused, hzero, hct, ht⟩ := hf.push_refused (by rw [hcf, hlen]) x
  replace hct : t.contents = b :: bs := hct.trans hcf
  obtain ⟨p, hpop, holdest, hcp, hp⟩ := ht.pop hct
  have hroom : p.contents.length < s.cfg.N - 1 := by simp [hcp, ← hlen]
  obtain ⟨q, hpush, hone, hcq, hq⟩ := hp.push hroom y
  replace hcq : q.contents = bs ++ [y] := by rw [hcq, hcp]
  obtain ⟨u, hdrain, hcu⟩ := hq.popAll (bs ++ [y]) hcq
  have hcount : (bs ++ [y]).length = s.cfg.N - 1 := by simpa using hlen
  rw [hlen] at hfill
  rw [hcount] at hdrain
  refine ⟨t, u, ?_, hct, ?_, hcu⟩
  · rw [← hzero]
    exact execAll_append hfill (execAll_cons hrefused rfl)
  · rw [← holdest, ← hone]
    exact execAll_cons hpop (execAll_cons hpush hdrain)

end Sys2Proof.Machine
end

section
/-! The interrupt agent (spec/41_rx_producer.md): when IRQ_RX is taken, that the agent's move does each of its
effects, and that it looks at nothing of the foreground's; the lemmas and the proofs of the statements about one
step of it. -/

namespace Sys2Proof.Machine

/-! ### Interrupt entry (R121) -/

/-- R205: the elements that the interrupt's being taken rests on. -/
theorem irqTakeable_iff_elements {s : State} :
    s.irqTakeable = true ↔
      s.rxq ≠ [] ∧ s.rxIrqEn = true ∧ s.irqArmed = true ∧ s.isrActive = false ∧ s.fault = none := by
  simp [irqTakeable_iff, irqPending_iff, State.devReadRxPend, and_assoc]

theorem execIrqRx_enters {s : State} (h : s.irqTakeable = true) : exec .irqRx s = .next (enterIsr s) := by
  rcases execIrqRx_cases s with ⟨-, e⟩ | ⟨hn, -⟩
  · exact e
  · simp [h] at hn

/-- Settles O27: the two cases of the event, told apart by the elements that `irqTakeable` reads. -/
theorem interruptEntryResult : Obligations.InterruptEntryResult := by
  refine fun s => ⟨fun hq hen harmed hisr hf => ?_, fun h => ?_⟩
  · have ht : s.irqTakeable = true := irqTakeable_iff_elements.2 ⟨hq, hen, harmed, hisr, hf⟩
    exact ⟨execIrqRx_enters ht, fun hs => hs.armedValid harmed⟩
  · rcases execIrqRx_cases s with ⟨ht, -⟩ | ⟨-, e⟩
    · exact absurd (irqTakeable_iff_elements.1 ht) h
    · exact e

/-! ### The move of the interrupt agent -/

/-- R122: a full ring loses the byte, which is taken all the same. -/
theorem drainOrExit_full {s : State} {b : Byte} {rest : List Byte} (hq : s.rxq = b :: rest)
    (hfull : s.ringFull = true) : drainOrExit s = .next { s with rxq := rest } := by
  have hfull' : State.ringFull { s with rxq := rest } = true := hfull
  simp [drainOrExit, devReadData, hq, rbTryPush, hfull', Result.andThen_next]

/-- R122: with room in the ring, the byte is stored at the head. -/
theorem drainOrExit_stored {s : State} {b : Byte} {rest : List Byte} (hq : s.rxq = b :: rest)
    (hroom : s.ringFull = false) (hh : s.rbHead < s.cfg.N) :
    drainOrExit s = .next { s with
      rxq := rest, rbMem := Memory.write s.rbMem s.rbHead b, rbHead := s.nextIndex s.rbHead } := by
  rcases drainOrExit_cases hh with ⟨hnil, -⟩ | ⟨b', rest', hq', ⟨hfull, -⟩ | ⟨-, e⟩⟩
  · simp [hq] at hnil
  · simp [hroom] at hfull
  · obtain ⟨rfl, rfl⟩ := List.cons.inj (hq.symm.trans hq')
    exact e

/-- R123: with no byte pending, the handler exits. -/
theorem drainOrExit_exit {s : State} (hq : s.rxq = []) : drainOrExit s = .next (exitIsr s) := by
  simp [drainOrExit, devReadData, hq]

theorem runMove_interrupt_in_handler {s : State} (hf : s.fault = none) (hi : s.isrActive = true) :
    runMove .interrupt s = drainOrExit s := by simp [runMove_interrupt hf, hi]

/-- The converse of `interrupt_effect`: the interrupt agent's move comes to each of its effects. -/
theorem MoveEffect.interrupt_runs {s t : State} (h : MoveEffect s .interrupt t) : runMove .interrupt s = .next t := by
  cases h with
  | irqHold hf hi hp => exact runMove_interrupt_holds hf (by simp [State.irqEnabled, hi, hp])
  | enter ht =>
    obtain ⟨-, hi, hf⟩ := irqTakeable_iff.1 ht
    simpa [runMove_interrupt hf, hi] using execIrqRx_enters ht
  | drainFull b rest hf hi hq hfull => exact (runMove_interrupt_in_handler hf hi).trans (drainOrExit_full hq hfull)
  | drainStore b rest hf hi hq hroom hh =>
    exact (runMove_interrupt_in_handler hf hi).trans (drainOrExit_stored hq hroom hh)
  | exit hf hi hq => exact (runMove_interrupt_in_handler hf hi).trans (drainOrExit_exit hq)

/-- Settles O28: what is pending and whether the ring is full choose the producer's effect, which its move comes
to. -/
theorem producerStepResult : Obligations.ProducerStepResult := by
  intro s ha hh hf hi hm
  rw [step_of_nextMove ha hm]
  refine ⟨fun b rest hq hfull => ?_, fun b rest hq hroom => ?_, fun hq => ?_⟩
  · exact (MoveEffect.drainFull (s := s.advance) b rest hf hi hq (decide_eq_true hfull)).interrupt_runs
  · exact (MoveEffect.drainStore (s := s.advance) b rest hf hi hq (decide_eq_false hroom) hh).interrupt_runs
  · exact (MoveEffect.exit (s := s.advance) hf hi hq).interrupt_runs

/-! ### What the producer leaves and does not look at (R120) -/

/-- A move of the interrupt agent writes the storage, the head, `isr_active` and the received bytes. -/
theorem MoveEffect.frame_of_interrupt {s t : State} (h : MoveEffect s .interrupt t) :
    t = { s with rbMem := t.rbMem, rbHead := t.rbHead, isrActive := t.isrActive, rxq := t.rxq } := by
  cases h <;> rfl

/-- The state with another foreground phase, response, busy flag, transmit log and port: what R120 keeps from the
producer. -/
def State.withForeground (fg : Phase) (rv : Bool) (rd : BitVec 32) (busy : Bool) (log : List Byte)
    (port : Option CmdWord) (s : State) : State :=
  { s with fg := fg, rspValid := rv, rspData := rd, txBusy := busy, txLog := log, port := port }

/-- Each effect of the interrupt agent asks nothing of the foreground's elements, and leaves them. -/
theorem MoveEffect.interrupt_withForeground {s t : State} (h : MoveEffect s .interrupt t) (fg : Phase) (rv : Bool)
    (rd : BitVec 32) (busy : Bool) (log : List Byte) (port : Option CmdWord) :
    MoveEffect (s.withForeground fg rv rd busy log port) .interrupt (t.withForeground fg rv rd busy log port) := by
  cases h with
  | irqHold hf hi hp => exact .irqHold hf hi hp
  | enter ht => exact .enter ht
  | drainFull b rest hf hi hq hfull => exact .drainFull b rest hf hi hq hfull
  | drainStore b rest hf hi hq hroom hh => exact .drainStore b rest hf hi hq hroom hh
  | exit hf hi hq => exact .exit hf hi hq

/-- Settles O39: the step is an effect of the interrupt agent, whose frame and storage are known, and which is an
effect beside any other foreground too. -/
theorem producerTouchesOnlyItsOwn : Obligations.ProducerTouchesOnlyItsOwn := by
  intro s t hw hm h
  obtain ⟨ha, he⟩ := step_effect h
  rw [hm] at he
  refine ⟨?_, fun fg rv rd busy log port => ?_⟩
  · have hread (a : Nat) (hne : a ≠ s.rbHead) : Memory.read t.rbMem a = Memory.read s.rbMem a :=
      he.read_other hw hne
    rw [he.frame_of_interrupt]
    exact ⟨rfl, rfl, rfl, rfl, rfl, rfl, rfl, rfl, rfl, rfl, rfl, rfl, rfl, hread⟩
  · exact (step_of_nextMove (s := s.withForeground fg rv rd busy log port) ha hm).trans
      (he.interrupt_withForeground fg rv rd busy log port).interrupt_runs

end Sys2Proof.Machine
end

section
/-! The whole interrupt (R125): the moves of the interrupt agent that drain every pending byte, and that a handler
which is sent finitely many bytes ends; the lemmas and the proofs of the statements about them. -/

namespace Sys2Proof.Machine

/-! ### The handler run to its end -/

theorem runMoves_interrupt_succ {s u t : State} {n : Nat} (h : MoveEffect s .interrupt u)
    (hrun : runMoves (List.replicate n .interrupt) u = .next t) :
    runMoves (List.replicate (n + 1) .interrupt) s = .next t := by
  simp [List.replicate_succ, runMoves, h.interrupt_runs, Result.andThen_next, hrun]

theorem contents_length_lt_of_room {s : State} (hs : s.Inv) (hf : s.ringFull = false) :
    s.contents.length < s.cfg.N - 1 := by
  have hne : s.contents.length ≠ s.cfg.N - 1 := fun h => by simp [(ringFull_iff_contents_length hs).2 h] at hf
  have hlt : s.contents.length < s.cfg.N := by
    rw [contents_length]
    exact ringCount_lt hs.admitted.capacity
  omega

/-- The bytes that fit in a ring with room, one of them stored first. -/
theorem append_take_succ {cs rest : List Byte} {n : Nat} (b : Byte) (h : cs.length < n) :
    cs ++ [b] ++ rest.take (n - (cs ++ [b]).length) = cs ++ (b :: rest).take (n - cs.length) := by
  have hn : n - cs.length = n - (cs.length + 1) + 1 := by omega
  simp [hn]

/-- The running handler takes a move for each pending byte and one to exit: the ring gains the bytes that it has
room for, and the others are lost. -/
theorem runMoves_drain (q : List Byte) {s : State} (hs : s.Inv) (hi : s.isrActive = true) (hq : s.rxq = q) :
    ∃ t, runMoves (List.replicate (q.length + 1) .interrupt) s = .next t ∧
      t.contents = s.contents ++ q.take (s.cfg.N - 1 - s.contents.length) ∧
      t = { s with isrActive := false, rxq := [], rbMem := t.rbMem, rbHead := t.rbHead } := by
  have hf : s.fault = none := hs.isrNoFault hi
  induction q generalizing s with
  | nil =>
    refine ⟨_, runMoves_interrupt_succ (.exit hf hi hq) rfl, ?_, by simp [exitIsr, hq]⟩
    rw [List.take_nil, List.append_nil]
    rfl
  | cons b rest ih =>
    cases hfull : s.ringFull with
    | true =>
      have heff := MoveEffect.drainFull b rest hf hi hq hfull
      obtain ⟨t, hrun, hc, ht⟩ := ih (heff.keeps_inv hs) hi rfl hf
      refine ⟨t, runMoves_interrupt_succ heff hrun, ?_, ht⟩
      replace hc : t.contents = s.contents ++ rest.take (s.cfg.N - 1 - s.contents.length) := hc
      simpa [(ringFull_iff_contents_length hs).1 hfull] using hc
    | false =>
      have heff := MoveEffect.drainStore b rest hf hi hq hfull hs.headInRange
      obtain ⟨t, hrun, hc, ht⟩ := ih (heff.keeps_inv hs) hi rfl hf
      refine ⟨t, runMoves_interrupt_succ heff hrun, ?_, ht⟩
      have hpush := contents_push hs.memWf hs.headInRange hs.tailInRange hfull b
      rw [← append_take_succ b (contents_length_lt_of_room hs hfull), ← hpush]
      exact hc

/-- Settles O40: one move enters the handler, and the others drain the pending bytes and exit. -/
theorem wholeInterrupt : Obligations.WholeInterrupt := by
  intro s hs ht
  obtain ⟨-, hi, -⟩ := irqTakeable_iff.1 ht
  obtain ⟨t, hrun, hc, hframe⟩ := runMoves_drain s.rxq (hs.enterIsr ht) rfl rfl
  refine ⟨t, ?_, hc, ?_⟩
  · rw [Nat.add_comm 1]
    exact runMoves_interrupt_succ (.enter ht) hrun
  · rw [hframe, hi]
    rfl

/-! ### Every handler ends -/

/-- R208: no move raises a fault while the handler runs. -/
theorem MoveEffect.keeps_no_fault_in_handler {m : Move} {s t : State} (h : MoveEffect s m t)
    (hi : s.isrActive = true) (hf : s.fault = none) : t.fault = none := by
  cases m with
  | foreground d =>
    obtain ⟨-, hft⟩ := h.foreground_leaves_word (by simp [State.cmdReady, hi]) hf
    exact hft
  | _ => rw [h.frame_of_not_foreground (by simp)]; exact hf

/-- Only the environment adds received bytes (R42). -/
theorem MoveEffect.rxq_length_le {m : Move} {s t : State} (h : MoveEffect s m t) (hm : ∀ b, m ≠ .envRx b) :
    t.rxq.length ≤ s.rxq.length := by
  cases m with
  | envRx b => exact absurd rfl (hm b)
  | foreground d =>
    obtain ⟨-, hrxq, -⟩ := h.foreground_keeps_isr_and_rxq
    rw [hrxq]
  | interrupt =>
    cases h with
    | drainFull b rest hf hi hq => simp [hq]
    | drainStore b rest hf hi hq => simp [hq]
    | _ => exact Nat.le_refl _
  | _ => cases h; exact Nat.le_refl _

/-- R122, R123: a move of the running handler takes a byte, or ends it. -/
theorem MoveEffect.handler_drains_or_exits {s t : State} (h : MoveEffect s .interrupt t) (hi : s.isrActive = true) :
    t.isrActive = false ∨ t.rxq.length < s.rxq.length := by
  cases h with
  | irqHold hf hn => simp [hi] at hn
  | enter ht =>
    obtain ⟨-, hn, -⟩ := irqTakeable_iff.1 ht
    simp [hi] at hn
  | drainFull b rest hf _ hq => exact .inr (by simp [hq])
  | drainStore b rest hf _ hq => exact .inr (by simp [hq])
  | exit => exact .inl rfl

section
variable {m : Nat → Move} {τ : Nat → State} (hrun : IsRun m τ)
include hrun

theorem IsRun.effect (j : Nat) : MoveEffect (τ j) (m j) (τ (j + 1)) := runMove_effect (hrun.2 j)

theorem IsRun.no_fault_in_handler {k : Nat} (hf : (τ k).fault = none) (hi : ∀ j, k ≤ j → (τ j).isrActive = true)
    {j : Nat} (hj : k ≤ j) : (τ j).fault = none := by
  induction j, hj using Nat.le_induction with
  | base => exact hf
  | succ j hj ih => exact (hrun.effect j).keeps_no_fault_in_handler (hi j hj) ih

/-- While no byte is received, the pending bytes grow no longer. -/
theorem IsRun.rxq_length_le {n : Nat} (hrx : ∀ j, n ≤ j → ∀ b, m j ≠ .envRx b) {i j : Nat} (hi : n ≤ i)
    (hij : i ≤ j) : (τ j).rxq.length ≤ (τ i).rxq.length := by
  induction j, hij using Nat.le_induction with
  | base => exact Nat.le_refl _
  | succ j hij ih => exact Nat.le_trans ((hrun.effect j).rxq_length_le (hrx j (by omega))) ih

end

section
variable {m : Nat → Move} {τ : Nat → State} {n : Nat} (hrun : IsRun m τ)
  (hi : ∀ j, n ≤ j → (τ j).isrActive = true) (hrx : ∀ j, n ≤ j → ∀ b, m j ≠ .envRx b)
  (hmoves : ∀ i, n ≤ i → ∃ j, i ≤ j ∧ m j = .interrupt)
include hrun hi hrx hmoves

/-- A handler that runs on, with nothing more received, later has fewer bytes pending: at the agent's next move it
takes one. -/
theorem IsRun.handler_drains_again {i : Nat} (hni : n ≤ i) :
    ∃ j, n ≤ j ∧ (τ j).rxq.length < (τ i).rxq.length := by
  obtain ⟨j, hij, hm⟩ := hmoves i hni
  have hnj : n ≤ j := Nat.le_trans hni hij
  have heff : MoveEffect (τ j) .interrupt (τ (j + 1)) := hm ▸ hrun.effect j
  have hnext : (τ (j + 1)).isrActive = true := hi (j + 1) (by omega)
  have hlt : (τ (j + 1)).rxq.length < (τ j).rxq.length :=
    (heff.handler_drains_or_exits (hi j hnj)).resolve_left (by simp [hnext])
  exact ⟨j + 1, by omega, Nat.lt_of_lt_of_le hlt (hrun.rxq_length_le hrx hni hij)⟩

/-- So it does not run on, whatever number of bytes is pending. -/
theorem IsRun.handler_not_forever {i : Nat} (hni : n ≤ i) : False := by
  induction hlen : (τ i).rxq.length using Nat.strong_induction_on generalizing i with
  | _ len ih =>
    obtain ⟨j, hnj, hlt⟩ := hrun.handler_drains_again hi hrx hmoves hni
    exact ih _ (hlen ▸ hlt) hnj rfl

end

/-- Settles O41: a handler that ran on would be sent nothing from some point on (ENV_RX_FINITE), and its agent,
with a step enabled throughout, would move again and again (SCHED_FAIR), each time with a byte fewer pending. -/
theorem everyInterruptEnds : Obligations.EveryInterruptEnds := by
  intro m τ hrun hfinite hfair k hf _
  by_contra hnever
  have hi (j : Nat) (hj : k ≤ j) : (τ j).isrActive = true := by
    rw [← Bool.not_eq_false]
    exact fun he => hnever ⟨j, hj, he⟩
  obtain ⟨n, hrx⟩ := hfinite k hi
  have henabled (j : Nat) (hj : k ≤ j) : (τ j).irqEnabled = true := by
    simp [State.irqEnabled, hi j hj, hrun.no_fault_in_handler hf hi hj]
  have hmoves (i : Nat) (hki : k ≤ i) : ∃ j, i ≤ j ∧ m j = .interrupt :=
    hfair i fun j hij => henabled j (Nat.le_trans hki hij)
  exact hrun.handler_not_forever (n := max k n) (fun j hj => hi j (by omega)) (fun j hj => hrx j (by omega))
    (fun i hki => hmoves i (by omega)) (Nat.le_refl _)

end Sys2Proof.Machine
end

section
/-! The decoder over the sequence table (R140 to R143, R151): the lookups of an admitted table, the sessions that
stay open, and the source's loop as a function of the bytes it is given; the lemmas and the proofs of the statements
about them. -/

namespace Sys2Proof.Machine

/-! ### The lookups (R142, R143) -/

section
variable {c : Config} (hc : c.Admitted)
include hc

/-- `WF_SEQ_UNIQUE`: a sequence names its entry. -/
theorem entry_eq_of_seq {e f : SequenceEntry} (he : e ∈ c.table) (hf : f ∈ c.table) (h : e.seq = f.seq) : e = f :=
  List.inj_on_of_nodup_map (List.pairwise_map.2 hc.seq_unique) he hf h

/-- `WF_CODE_UNIQUE`: a code names its entry. -/
theorem entry_eq_of_code {e f : SequenceEntry} (he : e ∈ c.table) (hf : f ∈ c.table) (h : e.code = f.code) : e = f :=
  List.inj_on_of_nodup_map (List.pairwise_map.2 hc.code_unique) he hf h

theorem exactCode_entry {e : SequenceEntry} (he : e ∈ c.table) : exactCode c.table e.seq = e.code := by
  rcases exactCode_cases c.table e.seq with ⟨f, hf, hseq, hcode⟩ | ⟨hnone, -⟩
  · rw [hcode, entry_eq_of_seq hc hf he hseq]
  · exact absurd rfl (hnone e he)

theorem codeLookup_entry {e : SequenceEntry} (he : e ∈ c.table) : codeLookup c.table e.code = some e.seq := by
  rcases codeLookup_cases c.table e.code with ⟨f, hf, hcode, hlookup⟩ | ⟨hnone, -⟩
  · rw [hlookup, entry_eq_of_code hc hf he hcode]
  · exact absurd rfl (hnone e he)

/-- Code 0 is no entry's, so the sentinel says that no entry has the sequence. -/
theorem exactCode_eq_zero_iff {q : List Byte} : exactCode c.table q = 0 ↔ ∀ e ∈ c.table, e.seq ≠ q := by
  rcases exactCode_cases c.table q with ⟨e, he, hseq, hcode⟩ | ⟨hnone, hzero⟩
  · rw [hcode]
    exact ⟨fun h => absurd h (hc.code_nonzero he), fun h => absurd hseq (h e he)⟩
  · exact ⟨fun _ => hnone, fun _ => hzero⟩

theorem exactCode_ne_zero_iff {q : List Byte} : exactCode c.table q ≠ 0 ↔ ∃ e ∈ c.table, e.seq = q :=
  (not_congr (exactCode_eq_zero_iff hc)).trans (by simp)

/-- `WF_NONEMPTY`: the empty session is no entry's. -/
theorem exactCode_nil : exactCode c.table [] = 0 :=
  (exactCode_eq_zero_iff hc).2 fun e he h => by simpa [h] using hc.seq_nonempty he

end

theorem codeLookup_eq_none_iff {table : List SequenceEntry} {k : KeyCode} :
    codeLookup table k = none ↔ ∀ e ∈ table, e.code ≠ k := by
  rcases codeLookup_cases table k with ⟨e, he, hcode, hlookup⟩ | ⟨hnone, hlookup⟩
  · rw [hlookup]
    exact ⟨fun h => by contradiction, fun h => absurd hcode (h e he)⟩
  · exact ⟨fun _ => hnone, fun _ => hlookup⟩

/-- Settles O43: sequences and codes name their entries, and 0 and the empty list name none. -/
theorem tableLookups : Obligations.TableLookups := by
  intro c hc
  exact ⟨fun q => exactCode_ne_zero_iff hc, fun e he => ⟨exactCode_entry hc he, codeLookup_entry hc he⟩,
    exactCode_nil hc, fun k => codeLookup_eq_none_iff, codeLookup_eq_none_iff.2 fun e he => hc.code_nonzero he⟩

/-! ### An open session (R140, R141) -/

theorem isPrefixOf_iff {q : List Byte} {e : SequenceEntry} : isPrefixOf q e = true ↔ q <+: e.seq := by
  simp only [isPrefixOf, Bool.and_eq_true, decide_eq_true_eq, List.prefix_iff_eq_take]
  exact ⟨fun ⟨_, h⟩ => h.symm, fun h => ⟨List.IsPrefix.length_le (List.prefix_iff_eq_take.2 h), h.symm⟩⟩

/-- 90_conflicts C3: what is no entry's sequence starts an entry properly as soon as it starts one. -/
theorem strictPrefixAny_iff_prefix {table : List SequenceEntry} {q : List Byte} (hq : ∀ e ∈ table, e.seq ≠ q) :
    strictPrefixAny table q = true ↔ ∃ e ∈ table, q <+: e.seq := by
  rw [strictPrefixAny_iff]
  constructor
  · rintro ⟨e, he, -, htake⟩
    exact ⟨e, he, List.prefix_iff_eq_take.2 htake.symm⟩
  · rintro ⟨e, he, hpre⟩
    have hlt : q.length < e.seq.length :=
      Nat.lt_of_le_of_ne hpre.length_le fun hlen => hq e he (hpre.eq_of_length hlen).symm
    exact ⟨e, he, hlt, (List.prefix_iff_eq_take.1 hpre).symm⟩

/-- R140 (b) and (c), by the non-strict test. -/
theorem sessionOpen_iff {c : Config} (hc : c.Admitted) {acc : List Byte} :
    sessionOpen c.table acc = true ↔
      (acc = [] ∨ ∃ e ∈ c.table, acc <+: e.seq) ∧ ∀ e ∈ c.table, e.seq ≠ acc := by
  simp only [sessionOpen, Bool.and_eq_true, Bool.or_eq_true, List.isEmpty_iff, decide_eq_true_eq,
    exactCode_eq_zero_iff hc]
  exact and_congr_left fun hne => or_congr_right (strictPrefixAny_iff_prefix hne)

theorem sessionOpen_nil {c : Config} (hc : c.Admitted) : sessionOpen c.table [] = true :=
  (sessionOpen_iff hc).2 ⟨.inl rfl, (exactCode_eq_zero_iff hc).1 (exactCode_nil hc)⟩

theorem sessionOpen_entry {c : Config} (hc : c.Admitted) {e : SequenceEntry} (he : e ∈ c.table) :
    sessionOpen c.table e.seq = false := by
  refine Bool.eq_false_iff.2 fun hopen => ?_
  obtain ⟨-, hnone⟩ := (sessionOpen_iff hc).1 hopen
  exact hnone e he rfl

/-- Settles O45: the ring's part apart, the two tests leave the same sessions open. -/
theorem strictAndPlainTestsGiveTheSameLoop : Obligations.StrictAndPlainTestsGiveTheSameLoop := by
  intro s acc hc
  simp only [continues_eq, Bool.and_eq_true, Bool.not_eq_true', sessionOpen_iff hc, isPrefixOf_iff,
    exactCode_eq_zero_iff hc]

/-- R177, R241: an entry's sequence that starts `q` is no shorter than `q`. -/
theorem noShorterEntry_iff {table : List SequenceEntry} {q : List Byte} :
    noShorterEntry table q = true ↔ ∀ e ∈ table, e.seq <+: q → q.length ≤ e.seq.length := by
  simp only [noShorterEntry, List.all_eq_true, Bool.not_eq_true', Bool.and_eq_false_iff, decide_eq_false_iff_not,
    List.prefix_iff_eq_take]
  exact forall₂_congr fun e _ => by rw [Nat.not_lt, or_comm, ← imp_iff_not_or, eq_comm]

/-- On the way to a start of an entry that no shorter entry starts, the session stays open. -/
theorem sessionOpen_take {c : Config} (hc : c.Admitted) {q : List Byte} (hstart : ∃ e ∈ c.table, q <+: e.seq)
    (hshort : noShorterEntry c.table q = true) {n : Nat} (hn : n < q.length) :
    sessionOpen c.table (q.take n) = true := by
  obtain ⟨e, he, hpre⟩ := hstart
  refine (sessionOpen_iff hc).2 ⟨.inr ⟨e, he, (List.take_prefix n q).trans hpre⟩, fun f hf hseq => ?_⟩
  have hle : q.length ≤ f.seq.length := noShorterEntry_iff.1 hshort f hf (hseq ▸ List.take_prefix n q)
  rw [hseq, List.length_take] at hle
  omega

/-! ### The source's loop over a list of bytes -/

section
variable {table : List SequenceEntry} {acc : List Byte}

theorem decodeSession_nil : decodeSession table acc [] = (acc, []) := rfl

theorem decodeSession_open (h : sessionOpen table acc = true) (b : Byte) (rest : List Byte) :
    decodeSession table acc (b :: rest) = decodeSession table (acc ++ [b]) rest := by simp [decodeSession, h]

theorem decodeSession_closed (h : sessionOpen table acc = false) (bytes : List Byte) :
    decodeSession table acc bytes = (acc, bytes) := by
  cases bytes with
  | nil => rfl
  | cons b rest => simp [decodeSession, h]

end

/-- The loop takes its bytes off the front: no byte is lost or reordered. -/
theorem decodeSession_append (table : List SequenceEntry) (acc bytes : List Byte) :
    (decodeSession table acc bytes).1 ++ (decodeSession table acc bytes).2 = acc ++ bytes := by
  induction bytes generalizing acc with
  | nil => rfl
  | cons b rest ih =>
    cases h : sessionOpen table acc with
    | true => rw [decodeSession_open h, ih, List.append_assoc, List.singleton_append]
    | false => rw [decodeSession_closed h]

theorem decodeSession_prefix (table : List SequenceEntry) (acc bytes : List Byte) :
    acc <+: (decodeSession table acc bytes).1 := by
  induction bytes generalizing acc with
  | nil => exact List.prefix_refl acc
  | cons b rest ih =>
    cases h : sessionOpen table acc with
    | true =>
      rw [decodeSession_open h]
      exact (List.prefix_append acc [b]).trans (ih (acc ++ [b]))
    | false => rw [decodeSession_closed h]

/-- The loop goes past a session only while it is open. -/
theorem sessionOpen_take_decodeSession {table : List SequenceEntry} {acc bytes : List Byte} {n : Nat}
    (hacc : acc.length ≤ n) (hn : n < (decodeSession table acc bytes).1.length) :
    sessionOpen table ((decodeSession table acc bytes).1.take n) = true := by
  induction bytes generalizing acc with
  | nil => exact absurd hn (Nat.not_lt.2 hacc)
  | cons b rest ih =>
    cases h : sessionOpen table acc with
    | false =>
      rw [decodeSession_closed h] at hn
      exact absurd hn (Nat.not_lt.2 hacc)
    | true =>
      rw [decodeSession_open h] at hn ⊢
      rcases Nat.eq_or_lt_of_le hacc with rfl | hlt
      · have hpre : acc <+: (decodeSession table (acc ++ [b]) rest).1 :=
          (List.prefix_append acc [b]).trans (decodeSession_prefix table (acc ++ [b]) rest)
        rwa [← List.prefix_iff_eq_take.1 hpre]
      · exact ih (by simpa using hlt) hn

/-- R147: one READ_KEY takes at most `MAX_SEQ_LEN` bytes. -/
theorem decodeSession_length_le {c : Config} (hc : c.Admitted) (bytes : List Byte) :
    (decodeSession c.table [] bytes).1.length ≤ c.maxSeqLen := by
  by_contra hlong
  have hlt := Nat.lt_of_not_le hlong
  have hroom := length_lt_of_sessionOpen hc (sessionOpen_take_decodeSession (Nat.zero_le _) hlt)
  rw [List.length_take, Nat.min_eq_left (Nat.le_of_lt hlt)] at hroom
  exact Nat.lt_irrefl _ hroom

/-- Bytes that the session stays open over are all taken. -/
theorem decodeSession_of_open {table : List SequenceEntry} {acc q : List Byte}
    (hopen : ∀ n < q.length, sessionOpen table (acc ++ q.take n) = true) (rest : List Byte) :
    decodeSession table acc (q ++ rest) = decodeSession table (acc ++ q) rest := by
  induction q generalizing acc with
  | nil => simp
  | cons b q ih =>
    have hhere : sessionOpen table acc = true := by simpa using hopen 0 (by simp)
    have hnext (n : Nat) (hn : n < q.length) : sessionOpen table (acc ++ [b] ++ q.take n) = true := by
      simpa using hopen (n + 1) (by simpa using hn)
    rw [List.cons_append, decodeSession_open hhere, ih hnext, List.append_assoc, List.singleton_append]

/-- A start of an entry that no shorter entry starts is taken whole. -/
theorem decodeSession_of_start {c : Config} (hc : c.Admitted) {q : List Byte} (hstart : ∃ e ∈ c.table, q <+: e.seq)
    (hshort : noShorterEntry c.table q = true) (rest : List Byte) :
    decodeSession c.table [] (q ++ rest) = decodeSession c.table q rest :=
  decodeSession_of_open (acc := []) (fun _ hn => sessionOpen_take hc hstart hshort hn) rest

/-! ### The response (R146) -/

theorem sessionResponse_of_code {table : List SequenceEntry} {acc : List Byte} (h : exactCode table acc ≠ 0) :
    sessionResponse table acc = exactCode table acc := if_pos h

theorem sessionResponse_entry {c : Config} (hc : c.Admitted) {e : SequenceEntry} (he : e ∈ c.table) :
    sessionResponse c.table e.seq = e.code := by
  have hcode : exactCode c.table e.seq = e.code := exactCode_entry hc he
  rw [sessionResponse_of_code (hcode ▸ hc.code_nonzero he), hcode]

theorem sessionResponse_last {table : List SequenceEntry} {front : List Byte} {b : Byte}
    (h : exactCode table (front ++ [b]) = 0) : sessionResponse table (front ++ [b]) = b.setWidth 32 := by
  simp [sessionResponse, h, zext32]

theorem sessionResponse_nil {c : Config} (hc : c.Admitted) : sessionResponse c.table [] = 0 := by
  simp [sessionResponse, exactCode_nil hc]

/-- Settles O50: a session that is an entry's is closed, so the loop goes no further; it gets there if no shorter
entry stops it before. -/
theorem shortestMatchWins : Obligations.ShortestMatchWins := by
  intro c hc
  refine ⟨fun e₁ h₁ e₂ h₂ hlt htake bytes hsession => ?_, fun e he hshort rest => ⟨?_, sessionResponse_entry hc he⟩⟩
  · have hopen : sessionOpen c.table ((decodeSession c.table [] bytes).1.take e₁.seq.length) = true :=
      sessionOpen_take_decodeSession (Nat.zero_le _) (by rwa [hsession])
    rw [hsession, htake, sessionOpen_entry hc h₁] at hopen
    contradiction
  · rw [decodeSession_of_start hc ⟨e, he, List.prefix_refl _⟩ hshort, decodeSession_closed (sessionOpen_entry hc he)]

end Sys2Proof.Machine
end

section
/-! READ_KEY (spec/42_decoder.md): its accept step, its iteration and its finish, the reasons a session ends for,
and the whole command as the source's loop over the ring's contents; the lemmas and the proofs of the statements
about them. -/

namespace Sys2Proof.Machine

/-! ### Accept (R144) -/

/-- The state of a READ_KEY just accepted. -/
def readKeyStarted (s : State) : State := { clearRsp s with fg := .readKey [] }

theorem execReadKey_initialised {s : State} (hr : s.cmdReady = true) (hd : s.initDone = true) :
    exec .readKey s = .next (readKeyStarted s) := by simp [execReadKey_ready hr, hd, readKeyStarted]

theorem execReadKey_uninitialised {s : State} (hr : s.cmdReady = true) (hd : s.initDone = false) :
    exec .readKey s = .next (raise .notInit (clearRsp s)) := by simp [execReadKey_ready hr, hd]

/-- Settles O24: the two cases of the command. -/
theorem readKeyAccepted : Obligations.ReadKeyAccepted := by
  refine ⟨fun w hop => by simp [decode, decodeWord, hop, noOperand], fun s hr => ⟨?_, ?_⟩⟩
  · exact execReadKey_initialised hr
  · exact execReadKey_uninitialised hr

/-! ### Iterate and finish (R145, R146) -/

/-- The state of a READ_KEY that has taken one more byte into its session. -/
def readKeyIterated (acc : List Byte) (s : State) : State :=
  { s with rbTail := s.nextIndex s.rbTail, fg := .readKey (acc ++ [Memory.read s.rbMem s.rbTail]) }

section
variable {s : State} {acc : List Byte} (d : Bool) (hf : s.fault = none) (hi : s.isrActive = false)
  (hp : s.fg = .readKey acc)
include hf hi hp

theorem runMove_readKey : runMove (.foreground d) s = readKeyStep acc s := by
  rw [runMove_foreground hf hi]
  simp only [hp]

theorem runMove_iterates (hc : s.continues acc = true) (ht : s.rbTail < s.cfg.N) :
    runMove (.foreground d) s = .next (readKeyIterated acc s) := by
  rw [runMove_readKey d hf hi hp]
  rcases readKeyStep_cases acc ht with ⟨-, -, e⟩ | ⟨hc', -⟩
  · exact e
  · simp [hc] at hc'

theorem runMove_finishes (hc : s.continues acc = false) : runMove (.foreground d) s = .next (readKeyFinish acc s) := by
  rw [runMove_readKey d hf hi hp]
  simp [readKeyStep, hc]

end

/-- Settles O29: the step's two cases, and the response's three. -/
theorem readKeyStepResult : Obligations.ReadKeyStepResult := by
  intro s acc d ha ht hf hi hm hp
  rw [step_of_nextMove ha hm]
  refine ⟨fun hc => runMove_iterates (s := s.advance) d hf hi hp hc ht, fun hc =>
    ⟨_, runMove_finishes (s := s.advance) d hf hi hp hc, sessionResponse_of_code, fun hzero => ⟨?_, ?_⟩⟩⟩
  · rintro front b rfl
    exact sessionResponse_last hzero
  · rintro rfl
    exact sessionResponse_nil ha

/-- What the foreground's move in a READ_KEY can come to. -/
theorem MoveEffect.of_readKey {d : Bool} {s t : State} {acc : List Byte} (h : MoveEffect s (.foreground d) t)
    (hp : s.fg = .readKey acc) :
    (s.isrActive = true ∧ t = s) ∨ (s.continues acc = true ∧ t = readKeyIterated acc s) ∨
      (s.continues acc = false ∧ t = readKeyFinish acc s) := by
  have hbusy : s.cmdReady = false := by simp [State.cmdReady, hp]
  cases h with
  | fgHold _ _ hw => exact .inl ⟨by simpa [hp] using hw, rfl⟩
  | reserved _ _ hr => simp [hbusy] at hr
  | command _ _ _ _ hr => simp [hbusy] at hr
  | iterate _ acc' _ _ hp' hc =>
    obtain rfl : acc' = acc := Phase.readKey.inj (hp'.symm.trans hp)
    exact .inr (.inl ⟨hc, rfl⟩)
  | finish _ acc' _ _ hp' hc =>
    obtain rfl : acc' = acc := Phase.readKey.inj (hp'.symm.trans hp)
    exact .inr (.inr ⟨hc, rfl⟩)
  | txWrite _ _ _ _ _ _ hp' => simp [hp'] at hp
  | txDone _ _ _ _ hp' => simp [hp'] at hp

/-- What the invariant says of a session (R144, R147). -/
theorem State.Inv.session {s : State} {acc : List Byte} (h : s.Inv) (hp : s.fg = .readKey acc) :
    acc.length ≤ s.cfg.maxSeqLen ∧ (acc = [] ∨ sessionOpen s.cfg.table acc.dropLast = true) := by
  have hkept := h.phase
  simp only [hp, phaseKept, Bool.and_eq_true, Bool.or_eq_true, List.isEmpty_iff, decide_eq_true_eq] at hkept
  obtain ⟨⟨-, hlen⟩, hopen⟩ := hkept
  exact ⟨hlen, hopen⟩

/-- R147: a session that goes on has room for the byte it takes. -/
theorem room_of_continues {s : State} {acc : List Byte} (ha : s.cfg.Admitted) (hc : s.continues acc = true) :
    acc.length + 1 ≤ s.cfg.maxSeqLen := by
  rw [continues_eq, Bool.and_eq_true] at hc
  obtain ⟨-, hopen⟩ := hc
  exact length_lt_of_sessionOpen ha hopen

/-- Settles O47: the other agents leave the phase, and the foreground's move iterates or finishes outside the
handler. -/
theorem sessionGrowsWithinItsBoundOrEnds : Obligations.SessionGrowsWithinItsBoundOrEnds := by
  intro s t acc hs hp h
  obtain ⟨ha, he⟩ := step_effect h
  obtain ⟨hlen, -⟩ := hs.session hp
  refine ⟨hlen, ?_⟩
  by_cases hm : ∃ d, s.nextMove = .foreground d
  · obtain ⟨d, hm⟩ := hm
    rw [hm] at he
    rcases he.of_readKey hp with ⟨hi, rfl⟩ | ⟨hc, rfl⟩ | ⟨-, rfl⟩
    · exact ⟨.inl hp, fun _ _ hi' => by simp [hi'] at hi⟩
    · exact ⟨.inr (.inl ⟨_, rfl, room_of_continues (s := s.advance) ha hc⟩), by simp [readKeyIterated]⟩
    · exact ⟨.inr (.inr ⟨rfl, rfl⟩), by simp [readKeyFinish]⟩
  · have hfg : t.fg = s.fg := by rw [he.frame_of_not_foreground (not_exists.1 hm)]; rfl
    exact ⟨.inl (hfg.trans hp), fun d hd => absurd ⟨d, hd⟩ hm⟩

/-- Settles O46: an empty session is open, so the ring has stopped it; any other ends in a byte taken while the
session before it was open, and is an entry's, or starts none, or starts one and the ring has stopped it. -/
theorem sessionOutcomes : Obligations.SessionOutcomes := by
  intro s acc d hs hf hi hm hp hc
  refine ⟨sessionResponse s.cfg.table acc, ?_, ?_⟩
  · rw [step_of_nextMove hs.admitted hm]
    exact runMove_finishes (s := s.advance) d hf hi hp hc
  have hempty (hopen : sessionOpen s.cfg.table acc = true) : s.ringEmpty = true := by
    simpa [continues_eq, hopen] using hc
  obtain ⟨-, hbefore⟩ := hs.session hp
  rcases List.eq_nil_or_concat' acc with rfl | ⟨front, b, rfl⟩
  · exact .inl ⟨rfl, hempty (sessionOpen_nil hs.admitted), sessionResponse_nil hs.admitted⟩
  rcases exactCode_cases s.cfg.table (front ++ [b]) with ⟨e, he, hseq, -⟩ | ⟨hnone, hzero⟩
  · exact .inr (.inl ⟨e, he, hseq.symm, by rw [← hseq, sessionResponse_entry hs.admitted he]⟩)
  have hne (e : SequenceEntry) (he : e ∈ s.cfg.table) : front ++ [b] ≠ e.seq := (hnone e he).symm
  have hlast := sessionResponse_last hzero
  cases hstart : strictPrefixAny s.cfg.table (front ++ [b]) with
  | false =>
    refine .inr (.inr (.inl ⟨hne, rfl, front, b, rfl, hlast, ?_⟩))
    have hopen : sessionOpen s.cfg.table front = true := by simpa using hbefore
    simp only [sessionOpen, Bool.and_eq_true, Bool.or_eq_true, List.isEmpty_iff] at hopen
    obtain ⟨hfront, -⟩ := hopen
    exact hfront
  | true =>
    exact .inr (.inr (.inr ⟨hne, rfl, hempty (by simp [sessionOpen, hstart, hzero]), front, b, rfl, hlast⟩))

/-! ### The whole command (R148) -/

section
variable {s : State} {acc : List Byte} (hs : s.Inv)
include hs

/-- An iteration takes the contents' first byte, as a turn of the loop does. -/
theorem decodeSession_of_continues (hc : s.continues acc = true) :
    decodeSession s.cfg.table acc s.contents =
      decodeSession s.cfg.table (acc ++ [Memory.read s.rbMem s.rbTail]) (readKeyIterated acc s).contents := by
  rw [continues_eq, Bool.and_eq_true, Bool.not_eq_true'] at hc
  obtain ⟨he, hopen⟩ := hc
  rw [contents_pop hs.headInRange hs.tailInRange he, decodeSession_open hopen]
  rfl

/-- The loop ends where READ_KEY finishes: in an empty ring, or at a closed session. -/
theorem decodeSession_of_not_continues (hc : s.continues acc = false) :
    decodeSession s.cfg.table acc s.contents = (acc, s.contents) := by
  rw [continues_eq, Bool.and_eq_false_iff, Bool.not_eq_false'] at hc
  rcases hc with he | hclosed
  · rw [(contents_nil_iff hs.headInRange hs.tailInRange).2 he, decodeSession_nil]
  · exact decodeSession_closed hclosed s.contents

end

theorem runMoves_cons_next {m : Move} {ms : List Move} {s u : State} (h : runMove m s = .next u) :
    runMoves (m :: ms) s = runMoves ms u := by rw [runMoves, h, Result.andThen_next]

/-- From a session in progress, with no other agent moving: one move for each byte that the loop still takes and
one to finish. -/
theorem runMoves_session {draws : List Bool} {s : State} {acc : List Byte} (hs : s.Inv) (hi : s.isrActive = false)
    (hp : s.fg = .readKey acc)
    (hlen : draws.length + acc.length = (decodeSession s.cfg.table acc s.contents).1.length + 1) :
    ∃ t, runMoves (draws.map .foreground) s = .next t ∧
      t.contents = (decodeSession s.cfg.table acc s.contents).2 ∧
      t = respond (sessionResponse s.cfg.table (decodeSession s.cfg.table acc s.contents).1)
        { s with rbTail := t.rbTail } := by
  have hf : s.fault = none := hs.faultHalts.2 (by simp [hp])
  induction draws generalizing s acc with
  | nil =>
    have hle := (decodeSession_prefix s.cfg.table acc s.contents).length_le
    rw [List.length_nil] at hlen
    omega
  | cons d draws ih =>
    cases hc : s.continues acc with
    | true =>
      have hmove := runMove_iterates d hf hi hp hc hs.tailInRange
      rw [decodeSession_of_continues hs hc] at hlen ⊢
      have hcount : draws.length + (acc ++ [Memory.read s.rbMem s.rbTail]).length =
          (d :: draws).length + acc.length := by
        simp only [List.length_append, List.length_cons, List.length_nil]
        omega
      obtain ⟨t, hrun, hleft, hframe⟩ :=
        ih (s := readKeyIterated acc s) ((runMove_effect hmove).keeps_inv hs) hi rfl (hcount.trans hlen) hf
      exact ⟨t, (runMoves_cons_next hmove).trans hrun, hleft, hframe⟩
    | false =>
      have hmove := runMove_finishes d hf hi hp hc
      rw [decodeSession_of_not_continues hs hc] at hlen ⊢
      simp only [List.length_cons] at hlen
      obtain rfl : draws = [] := List.length_eq_zero_iff.1 (by omega)
      exact ⟨readKeyFinish acc s, runMoves_cons_next hmove, rfl, rfl⟩

theorem runMove_startsReadKey {s : State} (d : Bool) (hr : s.cmdReady = true) (hd : s.initDone = true)
    (hport : s.port = some 0x200000000#36) :
    runMove (.foreground d) s = .next (readKeyStarted (takeCommand s)) := by
  have hdecode : decode (.command 0x200000000#36) = some .readKey := by decide
  rw [runMove_accepts d hr hport, acceptWord_decoded hdecode]
  exact execReadKey_initialised hr hd

/-- Once it has responded, only the tail, the port and the response are left changed by a READ_KEY: the phase is
Idle again. -/
theorem readKeyStarted_respond {s : State} (hr : s.cmdReady = true) (tail : Nat) (v : BitVec 32) :
    respond v { readKeyStarted (takeCommand s) with rbTail := tail } =
      { s with rbTail := tail, port := none, rspValid := true, rspData := v } := by
  obtain ⟨hidle, -, -⟩ := cmdReady_iff.1 hr
  simp [respond, readKeyStarted, clearRsp, takeCommand, hidle]

/-- Settles O48: the accept step opens the empty session, and the loop's run follows. -/
theorem wholeReadKey : Obligations.WholeReadKey := by
  intro s draws hs hr hd hport hlen
  obtain ⟨-, hi, -⟩ := cmdReady_iff.1 hr
  cases draws with
  | nil => simp at hlen
  | cons d draws =>
    have hmove := runMove_startsReadKey d hr hd hport
    obtain ⟨t, hrun, hleft, hframe⟩ := runMoves_session (draws := draws) (s := readKeyStarted (takeCommand s))
      ((runMove_effect hmove).keeps_inv hs) hi rfl (Nat.succ.inj hlen)
    refine ⟨t, (runMoves_cons_next hmove).trans hrun, hleft, ?_, decodeSession_length_le hs.admitted s.contents,
      hframe.trans (readKeyStarted_respond hr _ _)⟩
    rw [hleft]
    exact (decodeSession_append s.cfg.table [] s.contents).symm

/-- Settles O49: an empty ring keeps the empty session from its first byte. -/
theorem emptyPollRespondsZero : Obligations.EmptyPollRespondsZero := by
  intro s d e hs hr hd hport hempty
  obtain ⟨-, hi, hf⟩ := cmdReady_iff.1 hr
  have hempty' : (readKeyStarted (takeCommand s)).ringEmpty = true := hempty
  have hstops : (readKeyStarted (takeCommand s)).continues [] = false := by simp [continues_eq, hempty']
  have hfinish : runMove (.foreground e) (readKeyStarted (takeCommand s)) =
      .next { s with port := none, rspValid := true, rspData := 0 } := by
    rw [runMove_finishes (s := readKeyStarted (takeCommand s)) e hf hi rfl hstops, ← sessionResponse_nil hs.admitted]
    exact congrArg _ (readKeyStarted_respond hr s.rbTail _)
  rw [runMoves_cons_next (runMove_startsReadKey d hr hd hport), runMoves_cons_next hfinish]
  rfl

/-- A whole READ_KEY, for the session that the loop is known to take. -/
theorem readKey_answers {s : State} {draws : List Bool} {session left : List Byte} (hs : s.Inv)
    (hr : s.cmdReady = true) (hd : s.initDone = true) (hport : s.port = some 0x200000000#36)
    (hsession : decodeSession s.cfg.table [] s.contents = (session, left)) (hlen : draws.length = session.length + 2) :
    ∃ t, runMoves (draws.map .foreground) s = .next t ∧ t.fg = .idle ∧ t.rspValid = true ∧
      t.rspData = sessionResponse s.cfg.table session ∧ t.contents = left := by
  obtain ⟨hidle, -, -⟩ := cmdReady_iff.1 hr
  obtain ⟨t, hrun, hleft, -, -, hframe⟩ := wholeReadKey s draws hs hr hd hport (by rw [hsession]; exact hlen)
  rw [hsession] at hleft hframe
  exact ⟨t, hrun, by rw [hframe]; exact hidle, by rw [hframe], by rw [hframe], hleft⟩

/-- Settles O51: the loop takes the whole start, which is all the ring holds, and it is no entry's sequence. -/
theorem stalledSequenceAnswersItsLastByte : Obligations.StalledSequenceAnswersItsLastByte := by
  intro s front b draws hs hr hd hport hcontents hstart hshort hzero hlen
  have hnone := (exactCode_eq_zero_iff hs.admitted).1 hzero
  have hsession : decodeSession s.cfg.table [] s.contents = (front ++ [b], []) := by
    simpa [hcontents, decodeSession_nil] using
      decodeSession_of_start hs.admitted ((strictPrefixAny_iff_prefix hnone).1 hstart) hshort []
  obtain ⟨t, hrun, hfg, hvalid, hdata, hleft⟩ := readKey_answers hs hr hd hport hsession (by simpa using hlen)
  exact ⟨t, hrun, hfg, hvalid, hdata.trans (sessionResponse_last hzero), hleft⟩

/-- Settles O52: the empty session is open, and the byte closes it, being the start of no entry. -/
theorem literalFallbackForOneByte : Obligations.LiteralFallbackForOneByte := by
  intro s x rest d₁ d₂ d₃ hs hr hd hport hcontents hhead
  have hnostart (e : SequenceEntry) (he : e ∈ s.cfg.table) : ¬[x] <+: e.seq := fun h =>
    hhead e he (List.singleton_prefix_iff_head?_eq_some.1 h)
  have hnone (e : SequenceEntry) (he : e ∈ s.cfg.table) : e.seq ≠ [x] := fun h => hnostart e he (h ▸ List.prefix_refl _)
  have hclosed : sessionOpen s.cfg.table [x] = false := Bool.eq_false_iff.2 fun h => by
    obtain ⟨hstart, -⟩ := (sessionOpen_iff hs.admitted).1 h
    obtain ⟨e, he, hpre⟩ := hstart.resolve_left (by simp)
    exact hnostart e he hpre
  have hsession : decodeSession s.cfg.table [] s.contents = ([x], rest) := by
    rw [hcontents, decodeSession_open (sessionOpen_nil hs.admitted), List.nil_append, decodeSession_closed hclosed]
  obtain ⟨t, hrun, hfg, hvalid, hdata, hleft⟩ :=
    readKey_answers (draws := [d₁, d₂, d₃]) hs hr hd hport hsession rfl
  refine ⟨t, hrun, hfg, hvalid, hdata.trans ?_, hleft⟩
  exact sessionResponse_last (front := []) ((exactCode_eq_zero_iff hs.admitted).2 hnone)

end Sys2Proof.Machine
end

section
/-! WRITE_KEY, T_TX_BYTE and the transmitter (spec/43_tx_path.md): the bytes of a key code, the accept steps, the
per-byte and the completion step with what they touch, and the whole command; the lemmas and the proofs of the
statements about them. -/

namespace Sys2Proof.Machine

/-! ### The bytes of a key code (R170) -/

theorem encodeKey_entry {c : Config} (hc : c.Admitted) {e : SequenceEntry} (he : e ∈ c.table) :
    encodeKey c.table e.code = e.seq := by simp only [encodeKey, codeLookup_entry hc he]

theorem encodeKey_of_no_entry {table : List SequenceEntry} {k : KeyCode} (h : ∀ e ∈ table, e.code ≠ k) :
    encodeKey table k = [lowByte k] := by simp only [encodeKey, codeLookup_eq_none_iff.2 h]

/-- `WF_NONEMPTY`: every code is transmitted as at least one byte. -/
theorem encodeKey_length_pos {c : Config} (hc : c.Admitted) (k : KeyCode) : 1 ≤ (encodeKey c.table k).length := by
  by_cases h : ∃ e ∈ c.table, e.code = k
  · obtain ⟨e, he, rfl⟩ := h
    rw [encodeKey_entry hc he]
    exact hc.seq_nonempty he
  · rw [encodeKey_of_no_entry fun e he hcode => h ⟨e, he, hcode⟩]
    exact Nat.le_refl 1

/-- Settles O44: a code names its entry, or no entry has it. -/
theorem encodedKeyBytes : Obligations.EncodedKeyBytes :=
  fun _ hc => ⟨fun _ he => encodeKey_entry hc he, fun _ h => encodeKey_of_no_entry h,
    fun k => ⟨encodeKey_length_pos hc k, encodeKey_length_le hc k⟩⟩

/-! ### Accept (R172, R176) -/

/-- The state of a command just accepted that is to transmit `q`. -/
def transmitStarted (q : List Byte) (s : State) : State := { clearRsp s with fg := .tx q 0 }

theorem execWriteKey_initialised {s : State} (hr : s.cmdReady = true) (code : KeyCode) (hd : s.initDone = true) :
    exec (.writeKey code) s = .next (transmitStarted (encodeKey s.cfg.table code) s) := by
  simp [execWriteKey_ready hr, hd, transmitStarted]

theorem execWriteKey_uninitialised {s : State} (hr : s.cmdReady = true) (code : KeyCode) (hd : s.initDone = false) :
    exec (.writeKey code) s = .next (raise .notInit (clearRsp s)) := by simp [execWriteKey_ready hr, hd]

/-- Settles O25: the two cases of the command. -/
theorem writeKeyAccepted : Obligations.WriteKeyAccepted :=
  ⟨fun w hop => by simp [decode, decodeWord, hop],
    fun _ code hr => ⟨execWriteKey_initialised hr code, execWriteKey_uninitialised hr code⟩⟩

/-- Settles O26: the command looks at nothing but the block's being ready. -/
theorem txByteAccepted : Obligations.TxByteAccepted :=
  ⟨fun w hop => by simp [decode, decodeWord, hop, byteOperand], fun _ b hr => execTTxByte_ready hr b⟩

/-! ### The per-byte and the completion step (R173, R174) -/

/-- The state of the transmitter that has written a byte, the device drawing `d` for its busy flag (R57). -/
def byteTransmitted (b : Byte) (d : Bool) (rest : List Byte) (v : KeyCode) (s : State) : State :=
  { devWriteData b d s with fg := .tx rest v }

section
variable {s : State} {b : Byte} {q rest : List Byte} {v : KeyCode} (d : Bool)

theorem fgEnabled_of_poll (hp : s.fg = .tx (b :: rest) v) (hb : s.txBusy = true) : s.fgEnabled = false := by
  simp [State.fgEnabled, hp, hb]

theorem transmitStep_busy (hb : s.txBusy = true) : transmitStep (b :: rest) v d s = s := by
  simp [transmitStep, transmitByte, State.devReadTxBusy, hb]

theorem transmitStep_clear (hb : s.txBusy = false) :
    transmitStep (b :: rest) v d s = byteTransmitted b d rest v s := by
  simp [transmitStep, transmitByte, State.devReadTxBusy, hb, byteTransmitted]

variable (hf : s.fault = none) (hi : s.isrActive = false)
include hf hi

theorem runMove_transmits (hp : s.fg = .tx q v) : runMove (.foreground d) s = .next (transmitStep q v d s) := by
  rw [runMove_foreground hf hi]
  simp only [hp]

theorem runMove_writes_byte (hp : s.fg = .tx (b :: rest) v) (hb : s.txBusy = false) :
    runMove (.foreground d) s = .next (byteTransmitted b d rest v s) := by
  rw [runMove_transmits d hf hi hp, transmitStep_clear d hb]

end

/-- Settles O30: what is left to transmit and the busy flag choose the transmitter's step. -/
theorem transmitStepResult : Obligations.TransmitStepResult := by
  intro s v d ha hf hi hm
  rw [step_of_nextMove ha hm]
  refine ⟨fun b rest hp hb => ?_, fun b rest hp hb => ?_, fun hp => ?_⟩
  · exact runMove_foreground_holds (s := s.advance) d hf (fgEnabled_of_poll (s := s.advance) hp hb)
  · exact runMove_writes_byte (s := s.advance) d hf hi hp hb
  · exact runMove_transmits (s := s.advance) d hf hi hp

/-- Settles O55: of all the effects of a move, only the write of a byte touches the transmit log. -/
theorem dataRegisterWrittenOnlyWhenClear : Obligations.DataRegisterWrittenOnlyWhenClear := by
  intro s t h
  obtain ⟨-, he⟩ := step_effect h
  generalize s.nextMove = m at he
  cases he with
  | txWrite d b rest v hf hi hp hb => exact .inr ⟨hb, hi, hf, b, rest, v, hp, rfl, rfl⟩
  | command d w i _ hr hp hd hcmd =>
    obtain ⟨-, -, -, hlog⟩ := hcmd.keeps_isr_and_device
    exact .inl hlog
  | _ => exact .inl rfl

/-! ### What the transmitter leaves and does not look at (R171) -/

/-- What the foreground's move in the transmit phase comes to: the transmitter's step, held while the handler runs
(R28). -/
def transmitMove (q : List Byte) (v : KeyCode) (d : Bool) (s : State) : State :=
  if s.isrActive then s else transmitStep q v d s

theorem transmitMove_in_handler {q : List Byte} {v : KeyCode} {d : Bool} {s : State} (hi : s.isrActive = true) :
    transmitMove q v d s = s := if_pos hi

theorem transmitMove_outside_handler {q : List Byte} {v : KeyCode} {d : Bool} {s : State} (hi : s.isrActive = false) :
    transmitMove q v d s = transmitStep q v d s := by simp [transmitMove, hi]

theorem runMove_foreground_tx_iff {d : Bool} {s t : State} {q : List Byte} {v : KeyCode} (hp : s.fg = .tx q v) :
    runMove (.foreground d) s = .next t ↔ s.fault = none ∧ t = transmitMove q v d s := by
  cases hf : s.fault with
  | some c => simp [runMove, blockStep_faulted hf]
  | none =>
    cases hi : s.isrActive with
    | true =>
      rw [transmitMove_in_handler hi, runMove_foreground_holds d hf (by simp [State.fgEnabled, hi])]
      simp [eq_comm]
    | false =>
      rw [transmitMove_outside_handler hi, runMove_transmits d hf hi hp]
      simp [eq_comm]

/-- The transmitter writes the phase, the response, the busy flag and the transmit log. -/
theorem frame_of_transmitMove {q : List Byte} {v : KeyCode} {d : Bool} {s t : State} (h : t = transmitMove q v d s) :
    t = { s with fg := t.fg, rspValid := t.rspValid, rspData := t.rspData, txBusy := t.txBusy, txLog := t.txLog } := by
  cases hi : s.isrActive with
  | true => rw [h, transmitMove_in_handler hi, ← hi]
  | false =>
    rw [h, transmitMove_outside_handler hi, ← hi]
    rcases transmitStep_cases q v d s with ⟨-, e⟩ | ⟨b, rest, -, -, e⟩ | ⟨b, rest, -, -, e⟩ <;> rw [e] <;> rfl

/-- The state with another ring and other received bytes: what R171 keeps from the transmitter. -/
def State.withReceived (m : Memory) (h l : Nat) (rv : Bool) (rx : List Byte) (s : State) : State :=
  { s with rbMem := m, rbHead := h, rbTail := l, rbValid := rv, rxq := rx }

section
variable (q : List Byte) (v : KeyCode) (d : Bool) (m : Memory) (h l : Nat) (rv : Bool) (rx : List Byte) (s : State)

theorem transmitStep_withReceived :
    transmitStep q v d (s.withReceived m h l rv rx) = (transmitStep q v d s).withReceived m h l rv rx := by
  rcases transmitStep_cases q v d s with ⟨rfl, e⟩ | ⟨b, rest, rfl, hb, e⟩ | ⟨b, rest, rfl, hb, e⟩ <;> rw [e]
  · rfl
  · exact transmitStep_busy d hb
  · exact transmitStep_clear d hb

theorem transmitMove_withReceived :
    transmitMove q v d (s.withReceived m h l rv rx) = (transmitMove q v d s).withReceived m h l rv rx := by
  cases hi : s.isrActive with
  | true =>
    rw [transmitMove_in_handler hi]
    exact transmitMove_in_handler hi
  | false =>
    rw [transmitMove_outside_handler hi, ← transmitStep_withReceived]
    exact transmitMove_outside_handler hi

end

/-- Settles O56: the step is the transmitter's move, whose frame is known, and which is the same beside any other
ring and received bytes. -/
theorem transmitPathFrame : Obligations.TransmitPathFrame := by
  intro s t q v d hm hp hstep
  obtain ⟨ha, -⟩ := step_effect hstep
  rw [step_of_nextMove ha hm, runMove_foreground_tx_iff (s := s.advance) hp] at hstep
  obtain ⟨hf, ht⟩ := hstep
  refine ⟨?_, fun m h l rv rx => ?_⟩
  · rw [frame_of_transmitMove ht]
    exact ⟨rfl, rfl, rfl, rfl, rfl, rfl, rfl, rfl, rfl, rfl, rfl, rfl⟩
  · refine (step_of_nextMove (s := s.withReceived m h l rv rx) ha hm).trans
      ((runMove_foreground_tx_iff (s := s.advance.withReceived m h l rv rx) hp).2 ⟨hf, ?_⟩)
    rw [ht]
    exact (transmitMove_withReceived q v d m h l rv rx s.advance).symm

/-! ### The stuck transmitter (R175, R237) -/

theorem runMove_interrupt_answers {s : State} (hf : s.fault = none) (hh : s.rbHead < s.cfg.N) :
    ∃ t, runMove .interrupt s = .next t := by
  rw [runMove_interrupt hf]
  split
  · rcases drainOrExit_cases hh with ⟨-, e⟩ | ⟨b, rest, -, ⟨-, e⟩ | ⟨-, e⟩⟩ <;> exact ⟨_, e⟩
  · rcases execIrqRx_cases s with ⟨-, e⟩ | ⟨-, e⟩ <;> exact ⟨_, e⟩

/-- A poll of a set busy flag stays one over every move that does not clear the flag. -/
theorem runMove_stuck {s : State} {b : Byte} {rest : List Byte} {v : KeyCode} {m : Move} (hs : s.Inv)
    (hp : s.fg = .tx (b :: rest) v) (hb : s.txBusy = true) (hm : m ≠ .envTxBusy false) :
    ∃ t, runMove m s = .next t ∧ t.fg = s.fg ∧ t.txBusy = true ∧ t.txLog = s.txLog := by
  have hf : s.fault = none := hs.faultHalts.2 (by simp [hp])
  cases m with
  | foreground d => exact ⟨s, runMove_foreground_holds d hf (fgEnabled_of_poll hp hb), rfl, hb, rfl⟩
  | interrupt =>
    obtain ⟨t, ht⟩ := runMove_interrupt_answers hf hs.headInRange
    refine ⟨t, ht, ?_⟩
    rw [(interrupt_effect hf ht).frame_of_interrupt]
    exact ⟨rfl, hb, rfl⟩
  | envTxBusy busy =>
    have hbusy : busy = true := by simpa using hm
    exact ⟨_, rfl, rfl, hbusy, rfl⟩
  | envRx | caller => exact ⟨_, rfl, rfl, hb, rfl⟩

/-- Settles O54, by induction on the moves: each leaves a poll of a set busy flag, from which the others go on. -/
theorem stuckTransmitterHangsTheForeground : Obligations.StuckTransmitterHangsTheForeground := by
  intro s b rest v moves hs hp hb hmoves
  induction moves generalizing s with
  | nil => exact ⟨s, rfl, hp, hb, rfl⟩
  | cons m ms ih =>
    obtain ⟨hm, hms⟩ := not_or.1 (mt List.mem_cons.2 hmoves)
    obtain ⟨u, hu, hfg, hbusy, hlog⟩ := runMove_stuck hs hp hb (Ne.symm hm)
    obtain ⟨t, ht, hfg', hbusy', hlog'⟩ := ih u ((runMove_effect hu).keeps_inv hs) (hfg.trans hp) hbusy hms
    exact ⟨t, (runMoves_cons_next hu).trans ht, hfg', hbusy', hlog'.trans hlog⟩

/-! ### The whole command (R172 to R174) -/

/-- With the busy flag clear at every poll, the transmitter takes a move for each byte and one to complete. -/
theorem runMoves_transmit (q : List Byte) {s : State} {v : KeyCode} (hf : s.fault = none) (hi : s.isrActive = false)
    (hp : s.fg = .tx q v) (hb : s.txBusy = false) :
    runMoves (List.replicate (q.length + 1) (.foreground false)) s =
      .next (respond v { s with txLog := s.txLog ++ q }) := by
  induction q generalizing s with
  | nil =>
    rw [List.append_nil]
    exact runMoves_cons_next (runMove_transmits false hf hi hp)
  | cons b rest ih =>
    rw [List.length_cons, List.replicate_succ, runMoves_cons_next (runMove_writes_byte false hf hi hp hb),
      ih (s := byteTransmitted b false rest v s) hf hi rfl rfl]
    simp [respond, byteTransmitted, devWriteData, hb]

theorem decode_writeKey (code : KeyCode) : decode (.command (0x3#4 ++ code)) = some (.writeKey code) :=
  decodeOfEncodeIsIdentity (.writeKey code)

theorem runMove_startsWriteKey {s : State} (d : Bool) {code : KeyCode} (hr : s.cmdReady = true)
    (hd : s.initDone = true) (hport : s.port = some (0x3#4 ++ code)) :
    runMove (.foreground d) s = .next (transmitStarted (encodeKey s.cfg.table code) (takeCommand s)) := by
  rw [runMove_accepts d hr hport, acceptWord_decoded (decode_writeKey code)]
  exact execWriteKey_initialised (s := takeCommand s) hr code hd

/-- Settles O53: the accept step queues the code's bytes, and the transmitter's run follows. -/
theorem wholeWriteKey : Obligations.WholeWriteKey := by
  intro s code _ hr hd hb hport
  obtain ⟨hidle, hi, hf⟩ := cmdReady_iff.1 hr
  rw [List.replicate_succ, runMoves_cons_next (runMove_startsWriteKey false hr hd hport),
    runMoves_transmit (s := transmitStarted _ (takeCommand s)) _ hf hi rfl hb]
  simp [respond, transmitStarted, clearRsp, takeCommand, hidle]

end Sys2Proof.Machine
end

section
/-! The encode round trip (R177): the four parts of its run, each on its own, and the run as a whole. -/

namespace Sys2Proof.Machine

/-! ### Runs put one after the other -/

theorem runMoves_append {ms ns : List Move} {s u : State} (h : runMoves ms s = .next u) :
    runMoves (ms ++ ns) s = runMoves ns u := by
  induction ms generalizing s with
  | nil => injection h with h; subst h; rfl
  | cons m ms ih =>
    obtain ⟨t, ht, hrest⟩ := runMoves_cons h
    exact (runMoves_cons_next ht).trans (ih hrest)

theorem runMoves_keeps_inv {ms : List Move} {s t : State} (hs : s.Inv) (h : runMoves ms s = .next t) : t.Inv := by
  induction ms generalizing s with
  | nil => injection h with h; exact h ▸ hs
  | cons m ms ih =>
    obtain ⟨u, hu, hrest⟩ := runMoves_cons h
    exact ih ((runMove_effect hu).keeps_inv hs) hrest

/-! ### The four parts, each from a block at rest to a block at rest -/

/-- A ready block after INIT with the busy flag clear, and the bytes that it has transmitted, that wait to be
received, and that its ring holds. -/
structure State.AtRest (c : Config) (log rx ring : List Byte) (s : State) : Prop where
  inv : s.Inv
  cfg : s.cfg = c
  ready : s.cmdReady = true
  initDone : s.initDone = true
  clear : s.txBusy = false
  txLog : s.txLog = log
  rxq : s.rxq = rx
  contents : s.contents = ring

theorem callerDrive_atRest {c : Config} {log rx ring : List Byte} {s : State} (h : s.AtRest c log rx ring)
    (cmd : Option CmdWord) : (callerDrive cmd s).AtRest c log rx ring :=
  { h with inv := h.inv.driven s.rxq s.txBusy cmd }

section
variable {c : Config} {log rx ring : List Byte} {s : State}

/-- R172 to R174: the code's bytes are transmitted. -/
theorem State.AtRest.writeKey (h : s.AtRest c log rx ring) (code : KeyCode) :
    ∃ t, runMoves (.caller (some (0x3#4 ++ code)) ::
        List.replicate ((encodeKey c.table code).length + 2) (.foreground false)) s = .next t ∧
      t.AtRest c (log ++ encodeKey c.table code) rx ring := by
  obtain ⟨hinv, rfl, hr, hd, hb, rfl, hrx, hring⟩ := callerDrive_atRest h (some (0x3#4 ++ code))
  have hrun := wholeWriteKey (callerDrive (some (0x3#4 ++ code)) s) code hinv hr hd hb rfl
  exact ⟨_, hrun, runMoves_keeps_inv hinv hrun, rfl, hr, hd, hb, rfl, hrx, hring⟩

/-- R31: the environment delivers bytes. -/
theorem State.AtRest.receive (h : s.AtRest c log rx ring) (q : List Byte) :
    ∃ t, runMoves (q.map .envRx) s = .next t ∧ t.AtRest c log (rx ++ q) ring := by
  induction q generalizing s rx with
  | nil => exact ⟨s, rfl, by rwa [List.append_nil]⟩
  | cons b rest ih =>
    have hb : (envReceive b s).AtRest c log (rx ++ [b]) ring :=
      { h with inv := h.inv.driven (s.rxq ++ [b]) s.txBusy s.port, rxq := by simp [h.rxq] }
    obtain ⟨t, hrun, ht⟩ := ih hb
    exact ⟨t, (runMoves_cons_next rfl).trans hrun, by simpa using ht⟩

/-- R125: the interrupt puts the received bytes in an empty ring that has room for them all. -/
theorem State.AtRest.interrupt (h : s.AtRest c log rx []) (hne : rx ≠ []) (hroom : rx.length ≤ c.N - 1) :
    ∃ t, runMoves (List.replicate (1 + rx.length + 1) .interrupt) s = .next t ∧ t.AtRest c log [] rx := by
  obtain ⟨hinv, rfl, hr, hd, hb, hlog, rfl, hring⟩ := h
  obtain ⟨-, hi, hf⟩ := cmdReady_iff.1 hr
  have harmed : s.irqArmed = true := hinv.initArms ▸ hd
  have htake : s.irqTakeable = true := irqTakeable_iff_elements.2 ⟨hne, hinv.armedEnables ▸ harmed, harmed, hi, hf⟩
  obtain ⟨t, hrun, hcontents, hframe⟩ := wholeInterrupt s hinv htake
  have hfilled : t.contents = s.rxq := by simpa [hring, List.take_of_length_le hroom] using hcontents
  exact ⟨t, hrun, runMoves_keeps_inv hinv hrun, by rw [hframe], by rw [hframe]; exact hr, by rw [hframe]; exact hd,
    by rw [hframe]; exact hb, by rw [hframe]; exact hlog, by rw [hframe], hfilled⟩

/-- R144 to R148: an entry's sequence that no shorter entry starts is answered with the entry's code. -/
theorem State.AtRest.readKey {e : SequenceEntry} (h : s.AtRest c log rx e.seq) (he : e ∈ c.table)
    (hshort : noShorterEntry c.table e.seq = true) :
    ∃ t, runMoves (.caller (some 0x200000000#36) :: List.replicate (e.seq.length + 2) (.foreground false)) s = .next t ∧
      t.AtRest c log rx [] ∧ t.rspValid = true ∧ t.rspData = e.code := by
  obtain ⟨hinv, rfl, hr, hd, hb, hlog, hrx, hring⟩ := callerDrive_atRest h (some 0x200000000#36)
  obtain ⟨-, hwins⟩ := shortestMatchWins s.cfg hinv.admitted
  obtain ⟨hsession, hcode⟩ := hwins e he hshort []
  rw [List.append_nil] at hsession
  obtain ⟨t, hrun, hleft, -, -, hframe⟩ := wholeReadKey (callerDrive (some 0x200000000#36) s)
    (List.replicate (e.seq.length + 2) false) hinv hr hd rfl (by simp [hring, hsession])
  rw [hring, callerDrive_cfg, hsession] at hleft hframe
  rw [List.map_replicate] at hrun
  have hrest : t.AtRest s.cfg log rx [] :=
    ⟨runMoves_keeps_inv hinv hrun, by rw [hframe], by rw [hframe]; exact hr, by rw [hframe]; exact hd,
      by rw [hframe]; exact hb, by rw [hframe]; exact hlog, by rw [hframe]; exact hrx, hleft⟩
  exact ⟨t, hrun, hrest, by rw [hframe], by rw [hframe]; exact hcode⟩

end

/-- Settles O57: the four parts, each from where the one before it leads. -/
theorem encodeDecodeRoundTrip : Obligations.EncodeDecodeRoundTrip := by
  intro s e hs hr hd hb hrx hempty he hshort hroom
  have hne : e.seq ≠ [] := List.length_pos_iff.1 (hs.admitted.seq_nonempty he)
  have h : s.AtRest s.cfg s.txLog [] [] :=
    ⟨hs, rfl, hr, hd, hb, rfl, hrx, (contents_nil_iff hs.headInRange hs.tailInRange).2 hempty⟩
  obtain ⟨written, hwrite, h⟩ := h.writeKey e.code
  rw [encodeKey_entry hs.admitted he] at hwrite h
  obtain ⟨received, hreceive, h⟩ := h.receive e.seq
  obtain ⟨filled, hfill, h⟩ := h.interrupt hne hroom
  obtain ⟨t, hread, h, hvalid, hdata⟩ := h.readKey he hshort
  obtain ⟨hidle, -, -⟩ := cmdReady_iff.1 h.ready
  have hrun := (runMoves_append (runMoves_append (runMoves_append hwrite |>.trans hreceive) |>.trans hfill)).trans hread
  exact ⟨t, hrun, h.txLog, hidle, hvalid, hdata, h.contents, h.rxq⟩

end Sys2Proof.Machine
end

section
/-! INIT and the frames over the operations (spec/44_console_init.md): INIT's result, what each operation leaves
unchanged, and that no step takes INIT's marks back; the lemmas and the proofs of the statements about them. -/

namespace Sys2Proof.Machine

/-! ### INIT (R190) -/

/-- The state of a block that has carried out INIT. -/
def initialised (s : State) : State := respond 0 (markInitDone (armProducer (devWriteIe (rbReset (clearRsp s)))))

theorem execInit_first {s : State} (hr : s.cmdReady = true) (hd : s.initDone = false) :
    exec .init s = .next (initialised s) := by simp [execInit_ready hr, hd, initialised]

theorem execInit_again {s : State} (hr : s.cmdReady = true) (hd : s.initDone = true) :
    exec .init s = .next (raise .reinit (clearRsp s)) := by simp [execInit_ready hr, hd]

/-- Settles O18: the two cases of the command. -/
theorem initResult : Obligations.InitResult :=
  ⟨fun w hop => by simp [decode, decodeWord, hop, noOperand],
    fun _ hr => ⟨execInit_first hr, execInit_again hr⟩⟩

/-! ### What an operation leaves unchanged -/

/-- What an operation comes to when it answers a next state, in any block: nothing (log 8), interrupt entry, or
the effect of an accepted command. -/
theorem exec_cases {i : Instr} {s t : State} (h : exec i s = .next t) :
    t = s ∨ (i = .irqRx ∧ t = enterIsr s) ∨ (i ≠ .irqRx ∧ CommandEffect s i t) := by
  by_cases hi : i = .irqRx
  · subst hi
    rcases execIrqRx_cases s with ⟨-, e⟩ | ⟨-, e⟩ <;> rw [e] at h <;> injection h with h
    · exact .inr (.inl ⟨rfl, h.symm⟩)
    · exact .inl h.symm
  · cases hr : s.cmdReady with
    | true => exact .inr (.inr ⟨hi, exec_effect hr hi h⟩)
    | false =>
      rw [exec_waits hi hr] at h
      injection h with h
      exact .inl h.symm

section
variable {i : Instr} {s t : State} (h : CommandEffect s i t)
include h

theorem CommandEffect.keeps_schedule : t.agenda = s.agenda ∧ t.clock = s.clock := by cases h <;> exact ⟨rfl, rfl⟩

theorem CommandEffect.keeps_initMarks (hinit : i ≠ .init) :
    t.rxIrqEn = s.rxIrqEn ∧ t.irqArmed = s.irqArmed ∧ t.initDone = s.initDone := by
  cases h with
  | init => exact absurd rfl hinit
  | _ => exact ⟨rfl, rfl, rfl⟩

theorem CommandEffect.keeps_rbValid (hinit : i ≠ .init) (hreset : i ≠ .tRbReset) : t.rbValid = s.rbValid := by
  cases h with
  | init => exact absurd rfl hinit
  | tRbReset => exact absurd rfl hreset
  | _ => rfl

theorem CommandEffect.keeps_rbHead (hinit : i ≠ .init) (hreset : i ≠ .tRbReset) (hpush : ∀ b, i ≠ .tRbTryPush b) :
    t.rbHead = s.rbHead := by
  cases h with
  | init => exact absurd rfl hinit
  | tRbReset => exact absurd rfl hreset
  | pushStore b => exact absurd rfl (hpush b)
  | _ => rfl

theorem CommandEffect.keeps_rbTail (hinit : i ≠ .init) (hreset : i ≠ .tRbReset) (hpop : i ≠ .tRbPop) :
    t.rbTail = s.rbTail := by
  cases h with
  | init => exact absurd rfl hinit
  | tRbReset => exact absurd rfl hreset
  | tRbPop => exact absurd rfl hpop
  | _ => rfl

/-- R107: T_RB_TRY_PUSH alone writes the storage, and there the head's slot. -/
theorem CommandEffect.read_of_no_push (hw : Memory.wf s.rbMem) {a : Nat}
    (ha : ∀ b, i = .tRbTryPush b → a ≠ s.rbHead) : Memory.read t.rbMem a = Memory.read s.rbMem a := by
  cases h with
  | pushStore b => exact Memory.read_write_other hw b (ha b rfl)
  | _ => rfl

end

/-- Settles O31: an operation that holds changes nothing, interrupt entry sets `isr_active`, and an accepted
command keeps each element by its own lemma. -/
theorem operationFrame : Obligations.OperationFrame := by
  intro i s t hw h
  rcases exec_cases h with rfl | ⟨rfl, rfl⟩ | ⟨hi, he⟩
  · simp
  · simp [enterIsr]
  · obtain ⟨hisr, hrxq, hbusy, hlog⟩ := he.keeps_isr_and_device
    exact ⟨⟨hrxq, hbusy, hlog, he.keeps_cfg, he.keeps_port, he.keeps_schedule⟩, he.keeps_initMarks, fun _ => hisr,
      fun hirq => absurd hirq hi, he.keeps_rbValid, he.keeps_rbHead, he.keeps_rbTail, fun _ => he.read_of_no_push hw⟩

/-! ### No step takes a mark back (R191, R24) -/

/-- `t` has every mark of INIT that `s` has, and `rb_valid` if `s` has it. -/
def KeepsMarksSet (s t : State) : Prop :=
  (s.initDone = true → t.initDone = true) ∧ (s.irqArmed = true → t.irqArmed = true) ∧
    (s.rxIrqEn = true → t.rxIrqEn = true) ∧ (s.rbValid = true → t.rbValid = true)

theorem CommandEffect.keepsMarksSet {i : Instr} {s t : State} (h : CommandEffect s i t) : KeepsMarksSet s t := by
  cases h with
  | init => exact ⟨fun _ => rfl, fun _ => rfl, fun _ => rfl, fun _ => rfl⟩
  | tRbReset => exact ⟨id, id, id, fun _ => rfl⟩
  | _ => exact ⟨id, id, id, id⟩

theorem MoveEffect.keepsMarksSet {m : Move} {s t : State} (h : MoveEffect s m t) : KeepsMarksSet s t := by
  cases h with
  | command _ _ _ _ _ _ _ he => exact he.keepsMarksSet
  | _ => exact ⟨id, id, id, id⟩

/-- A command that sets `init_done` is INIT: every other one keeps it. -/
theorem CommandEffect.init_of_initDone_ne {i : Instr} {s t : State} (h : CommandEffect s i t)
    (hne : t.initDone ≠ s.initDone) : i = .init := by
  by_contra hi
  obtain ⟨-, -, hdone⟩ := h.keeps_initMarks hi
  exact hne hdone

/-- A move changes `init_done` by a ready block's acceptance of INIT's word alone. -/
theorem MoveEffect.accepts_init_of_initDone_ne {m : Move} {s t : State} (h : MoveEffect s m t)
    (hne : t.initDone ≠ s.initDone) :
    s.cmdReady = true ∧ (∃ d, m = .foreground d) ∧ ∃ w, s.port = some w ∧ decode (.command w) = some .init := by
  cases h with
  | command d w i _ hr hp hd he =>
    obtain rfl := he.init_of_initDone_ne hne
    exact ⟨hr, ⟨d, rfl⟩, w, hp, hd⟩
  | _ => exact absurd rfl hne

/-- R191: a step that changes `init_done` accepts INIT. -/
theorem accepting_init_of_step {s t : State} (h : step s = .next t) (hne : t.initDone ≠ s.initDone) :
    s.accepting = some .init := by
  obtain ⟨-, he⟩ := step_effect h
  obtain ⟨hr, ⟨d, hm⟩, w, hp, hd⟩ := he.accepts_init_of_initDone_ne hne
  replace hp : s.port = some w := hp
  rw [accepting_of_ready hm hr, hp]
  exact hd

/-- Settles O38: a step is its move's effect, which sets marks and clears none. -/
theorem initMarksAreNeverCleared : Obligations.InitMarksAreNeverCleared := by
  intro s t h
  obtain ⟨-, he⟩ := step_effect h
  obtain ⟨hdone, harmed, hen, hvalid⟩ := he.keepsMarksSet
  exact ⟨hdone, harmed, hen, hvalid, fun hs ht => accepting_init_of_step h (by simp [hs, ht])⟩

end Sys2Proof.Machine
end

section
/-! Exceptions (spec/60_exceptions.md): which fault an operation records, that a faulted block is over, that a step
from the invariant answers, when a configuration is refused, and that a requested interrupt is taken; the lemmas and
the proofs of the statements about them. -/

namespace Sys2Proof.Machine

/-! ### The fault of an operation (R201, R204) -/

/-- An accepted command records the fault of its first cause, or none. -/
theorem CommandEffect.fault_eq {i : Instr} {s t : State} (h : CommandEffect s i t) (hf : s.fault = none) :
    t.fault = commandFault s i := by
  cases h with
  | raised _ c hc => exact hc.symm
  | init hd => simp [commandFault, hd, hf]
  | readKey hd | writeKey _ hd => simp [commandFault, hd, hf]
  | tTxByte => exact hf
  | tRbReset ha => simp [commandFault, ha, hf]
  | pushFull _ ha hv | pushStore _ ha hv => simp [commandFault, ha, hv, hf]
  | tRbIsEmpty hv => simp [commandFault, hv, hf]
  | tRbPop hv he => simp [commandFault, hv, he, hf]

/-- What an operation of a ready block records; IRQ_RX records nothing. -/
theorem exec_fault_eq {i : Instr} {s t : State} (hr : s.cmdReady = true) (h : exec i s = .next t) :
    t.fault = commandFault s i := by
  obtain ⟨-, -, hf⟩ := cmdReady_iff.1 hr
  by_cases hi : i = .irqRx
  · subst hi
    rcases exec_cases h with rfl | ⟨-, rfl⟩ | ⟨hne, -⟩
    · exact hf
    · exact hf
    · exact absurd rfl hne
  · exact (exec_effect hr hi h).fault_eq hf

/-- Settles O32: the operation answers, and the first cause that holds is the one the statement lists. -/
theorem faultOfEachOperation : Obligations.FaultOfEachOperation := by
  intro i s hr hh ht
  obtain ⟨t, he⟩ := exec_answers i hr hh ht
  refine ⟨t, he, (exec_fault_eq hr he).trans ?_⟩
  cases i with
  | tRbPop => simp [commandFault, State.ringEmpty]
  | _ => rfl

/-! ### A faulted block (R200) -/

section
variable {s : State} {c : FaultCode} (hf : s.fault = some c)
include hf

theorem cmdReady_of_faulted : s.cmdReady = false := by simp [State.cmdReady, hf]

theorem irqTakeable_of_faulted : s.irqTakeable = false := by simp [State.irqTakeable, hf]

theorem runMove_foreground_faulted (d : Bool) : runMove (.foreground d) s = .fault (.halted c) :=
  blockStep_faulted hf

theorem runMove_interrupt_faulted : runMove .interrupt s = .fault (.halted c) := blockStep_faulted hf

/-- In a faulted block the environment and the caller still move, and either agent's move stops the run. -/
theorem runMove_faulted_cases (m : Move) :
    (∃ t, runMove m s = .next t) ∨
      (runMove m s = .fault (.halted c) ∧ (m = .interrupt ∨ ∃ d, m = .foreground d)) := by
  cases m with
  | foreground d => exact .inr ⟨runMove_foreground_faulted hf d, .inr ⟨d, rfl⟩⟩
  | interrupt => exact .inr ⟨runMove_interrupt_faulted hf, .inl rfl⟩
  | envRx | envTxBusy | caller => exact .inl ⟨_, rfl⟩

end

/-- Settles O15: either agent's move stops the run, and the other moves leave the fault, the phase and the
response. -/
theorem faultedBlockNeverStepsAgain : Obligations.FaultedBlockNeverStepsAgain := by
  intro s c ha hf
  have hstop (d : Bool) (hm : s.nextMove = .foreground d) : step s = .fault (.halted c) :=
    (step_of_nextMove ha hm).trans (runMove_foreground_faulted (s := s.advance) hf d)
  refine ⟨cmdReady_of_faulted hf, irqTakeable_of_faulted hf, hstop, fun hm => ?_, fun t h => ?_⟩
  · exact (step_of_nextMove ha hm).trans (runMove_interrupt_faulted (s := s.advance) hf)
  · obtain ⟨-, he⟩ := step_effect h
    rw [he.frame_of_not_foreground fun d hm => by simp [hstop d hm] at h]
    exact ⟨hf, rfl, rfl, rfl⟩

/-! ### A step from the invariant (R13, R200) -/

/-- With the indices in range, every move of a block without a fault answers a next state. -/
theorem runMove_answers (m : Move) {s : State} (hf : s.fault = none) (hh : s.rbHead < s.cfg.N)
    (ht : s.rbTail < s.cfg.N) : ∃ t, runMove m s = .next t := by
  cases m with
  | foreground d => exact runMove_foreground_answers d hf hh ht
  | interrupt => exact runMove_interrupt_answers hf hh
  | envRx | envTxBusy | caller => exact ⟨_, rfl⟩

/-- Settles O4: without a fault the invariant's index ranges let every move answer, and with one the agents' moves
alone stop. -/
theorem stepFromTheInvariantAnswers : Obligations.StepFromTheInvariantAnswers := by
  intro s hs
  rw [step_admitted hs.admitted]
  cases hf : s.fault with
  | none => exact .inl (runMove_answers s.nextMove (s := s.advance) hf hs.headInRange hs.tailInRange)
  | some c => exact (runMove_faulted_cases (s := s.advance) hf s.nextMove).imp_right fun h => ⟨c, rfl, h⟩

/-! ### No move is refused -/

/-- The outcome is no refusal: a next state, or a stop with a fault. -/
def NotRefused {α : Type} (o : Result α) : Prop := ∀ r, o ≠ .refused r

theorem notRefused_next {α : Type} (a : α) : NotRefused (.next a) := fun _ => by simp

theorem notRefused_fault {α : Type} (r : Fault) : NotRefused (.fault r : Result α) := fun _ => by simp

theorem notRefused_ite {α : Type} {c : Prop} [Decidable c] {o p : Result α} (ho : NotRefused o) (hp : NotRefused p) :
    NotRefused (if c then o else p) := by
  split
  · exact ho
  · exact hp

theorem notRefused_andThen {α β : Type} {o : Result α} {f : α → Result β} (ho : NotRefused o)
    (hf : ∀ a, NotRefused (f a)) : NotRefused (Result.andThen o f) := by
  cases o with
  | next a => exact hf a
  | fault r => exact notRefused_fault r
  | refused r => exact absurd rfl (ho r)

theorem accept_notRefused {body : State → Result State} (h : ∀ s, NotRefused (body s)) (s : State) :
    NotRefused (accept body s) := notRefused_ite (h (clearRsp s)) (notRefused_next s)

/-- A command that first looks for its fault (R201). -/
theorem raiseOr_notRefused {c : Bool} {k : FaultCode} {s : State} {o : Result State} (h : NotRefused o) :
    NotRefused (if c then .next (raise k s) else o) := notRefused_ite (notRefused_next _) h

theorem rbTryPush_notRefused (b : Byte) (s : State) : NotRefused (rbTryPush b s) :=
  notRefused_ite (notRefused_next _) <|
    notRefused_andThen (notRefused_ite (notRefused_next _) (notRefused_fault _)) fun _ => notRefused_next _

theorem rbPop_notRefused (s : State) : NotRefused (rbPop s) :=
  notRefused_ite (notRefused_next _) <|
    notRefused_andThen (notRefused_ite (notRefused_next _) (notRefused_fault _)) fun _ => notRefused_next _

theorem exec_notRefused (i : Instr) (s : State) : NotRefused (exec i s) := by
  cases i with
  | init | readKey | writeKey | tRbReset | tRbIsEmpty =>
    exact accept_notRefused (fun _ => raiseOr_notRefused (notRefused_next _)) s
  | tRbTryPush b =>
    refine accept_notRefused (fun s => raiseOr_notRefused <| raiseOr_notRefused <|
      notRefused_andThen (rbTryPush_notRefused b s) fun r => ?_) s
    exact notRefused_next _
  | tRbPop =>
    refine accept_notRefused (fun s => raiseOr_notRefused <| notRefused_andThen (rbPop_notRefused s) fun r => ?_) s
    split <;> exact notRefused_next _
  | tTxByte b => exact accept_notRefused (fun _ => notRefused_next _) s
  | irqRx => exact notRefused_ite (notRefused_next _) (notRefused_next _)

theorem acceptWord_notRefused (w : CmdWord) (s : State) : NotRefused (acceptWord w s) := by
  unfold acceptWord
  split
  · exact exec_notRefused _ _
  · exact accept_notRefused (fun _ => notRefused_next _) _

theorem readKeyStep_notRefused (acc : List Byte) (s : State) : NotRefused (readKeyStep acc s) := by
  refine notRefused_ite (notRefused_andThen (rbPop_notRefused s) fun r => ?_) (notRefused_next _)
  split <;> exact notRefused_next _

theorem drainOrExit_notRefused (s : State) : NotRefused (drainOrExit s) := by
  unfold drainOrExit
  split
  · exact notRefused_andThen (rbTryPush_notRefused _ _) fun _ => notRefused_next _
  · exact notRefused_next _

theorem foregroundEnabledStep_notRefused (d : Bool) (s : State) : NotRefused (foregroundEnabledStep d s) := by
  refine notRefused_ite (notRefused_next _) ?_
  cases s.fg with
  | idle =>
    cases s.port with
    | none => exact notRefused_next _
    | some w => exact acceptWord_notRefused w s
  | readKey acc => exact readKeyStep_notRefused acc s
  | tx | halted => exact notRefused_next _

theorem blockStep_notRefused {body : State → Result State} (h : ∀ s, NotRefused (body s)) (s : State) :
    NotRefused (blockStep body s) := by
  unfold blockStep
  split
  · exact notRefused_fault _
  · exact h s

/-- R203: it is the configuration alone that a step is refused for. -/
theorem runMove_notRefused (m : Move) (s : State) : NotRefused (runMove m s) := by
  cases m with
  | foreground d => exact blockStep_notRefused (foregroundEnabledStep_notRefused d) s
  | interrupt =>
    exact blockStep_notRefused (fun s => notRefused_ite (drainOrExit_notRefused s) (exec_notRefused .irqRx s)) s
  | envRx | envTxBusy | caller => exact notRefused_next _

/-! ### A configuration that is not admitted (R203) -/

theorem step_refused_iff {s : State} {k : ConfigCheck} :
    step s = .refused (.badConfig k) ↔ s.cfg.firstFailure = some k := by
  cases hc : s.cfg.firstFailure with
  | none => simpa [step_admitted (s := s) hc] using runMove_notRefused s.nextMove s.advance (.badConfig k)
  | some j => simp [step, admittedStep, hc]

/-- The named check fails, and every check before it in R203's order passes. -/
theorem firstFailure_eq_some_iff {c : Config} {k : ConfigCheck} :
    c.firstFailure = some k ↔
      c.passes k = false ∧
        ∃ before after, ConfigCheck.order = before ++ k :: after ∧ ∀ j ∈ before, c.passes j = true := by
  simp [Config.firstFailure, List.find?_eq_some_iff_append]

theorem exists_firstFailure {c : Config} {k : ConfigCheck} (h : c.passes k = false) :
    ∃ j, c.firstFailure = some j := by
  refine Option.ne_none_iff_exists'.1 fun hc => ?_
  simp [Config.Admitted.passes hc k] at h

/-- Settles O14: a step is refused for the first failing check alone, and there is one as soon as any fails. -/
theorem configurationRefusedByFirstFailingCheck : Obligations.ConfigurationRefusedByFirstFailingCheck := by
  refine fun s => ⟨fun k => step_refused_iff.trans firstFailure_eq_some_iff, fun ⟨k, hk⟩ => ?_⟩
  obtain ⟨j, hj⟩ := exists_firstFailure hk
  exact ⟨j, step_refused_iff.2 hj⟩

/-! ### A requested interrupt (R205, R206) -/

/-- Outside the handler no byte is taken from the device and no mark is cleared, so a request stands. -/
theorem MoveEffect.keeps_irqPending {m : Move} {s t : State} (h : MoveEffect s m t) (hi : s.isrActive = false)
    (hp : s.irqPending = true) : t.irqPending = true := by
  obtain ⟨hrx, hen, harmed⟩ := irqPending_iff.1 hp
  obtain ⟨-, hkarmed, hken, -⟩ := h.keepsMarksSet
  refine irqPending_iff.2 ⟨?_, hken hen, hkarmed harmed⟩
  cases m with
  | foreground d =>
    obtain ⟨-, hrxq, -⟩ := h.foreground_keeps_isr_and_rxq
    rwa [State.devReadRxPend, hrxq]
  | interrupt =>
    cases h with
    | irqHold | enter => exact hrx
    | drainFull _ _ _ ha | drainStore _ _ _ ha | exit _ ha => simp [hi] at ha
  | envRx b => cases h; simp [State.devReadRxPend]
  | envTxBusy | caller => cases h; exact hrx

/-- While it is not taken, a requested interrupt stays requested. -/
theorem IsRun.irqPending_untaken {m : Nat → Move} {τ : Nat → State} (hrun : IsRun m τ) {k : Nat}
    (hp : (τ k).irqPending = true) (hi : ∀ j, k ≤ j → (τ j).isrActive = false) {j : Nat} (hj : k ≤ j) :
    (τ j).irqPending = true := by
  induction j, hj using Nat.le_induction with
  | base => exact hp
  | succ j hj ih => exact (hrun.effect j).keeps_irqPending (hi j hj) ih

/-- Settles O42: a requested interrupt that is never taken would stay requested for good, which
ENV_IRQ_FAIR rules out. -/
theorem requestedInterruptIsTaken : Obligations.RequestedInterruptIsTaken := by
  intro m τ hrun hfair k hp
  by_contra hnever
  have hi (j : Nat) (hj : k ≤ j) : (τ j).isrActive = false := Bool.eq_false_iff.2 fun ht => hnever ⟨j, hj, ht⟩
  obtain ⟨j, hj, hserved⟩ := hfair k
  exact hserved ⟨hrun.irqPending_untaken hp hi hj, hi j hj⟩

end Sys2Proof.Machine
end

section
/-! Power-on (spec/70_reset_and_hazards.md, R230 and R231): the power-on states, that they meet the invariant, and which
commands they start without a fault; the lemmas and the proofs of the statements about them. -/

namespace Sys2Proof.Machine

/-! ### The power-on states (R230) -/

/-- Settles O1: `State.reset` writes out R230's values, and its empty listing is a storage of `N` slots. -/
theorem resetIsAPowerOnState : Obligations.ResetIsAPowerOnState where
  memWf := ⟨.nil, fun _ h => nomatch h⟩
  memWithin := fun _ h => nomatch h
  headInRange := by decide
  tailInRange := by decide
  rbValid := rfl
  initDone := rfl
  irqArmed := rfl
  isrActive := rfl
  fg := rfl
  fault := rfl
  rspValid := rfl
  rxIrqEn := rfl
  txLog := rfl

/-- Idle, with no fault and none of INIT's marks set, a block meets the invariant. -/
theorem State.PowerOn.inv {s : State} (h : s.PowerOn) (ha : s.cfg.Admitted) : s.Inv where
  admitted := ha
  memWf := h.memWf
  memWithin := h.memWithin
  headInRange := h.headInRange
  tailInRange := h.tailInRange
  phase := by simp [h.fg, phaseKept]
  faultHalts := by simp [h.fg, h.fault]
  initArms := h.initDone.trans h.irqArmed.symm
  armedEnables := h.irqArmed.trans h.rxIrqEn.symm
  armedValid := by simp [h.irqArmed]
  isrArmed := by simp [h.isrActive]
  isrNoFault := fun _ => h.fault
  rspIdle := fun _ => h.fg

/-- Settles O2: the power-on values give the invariant, and `State.reset` is a power-on state of an admitted
configuration. -/
theorem powerOnMeetsTheInvariant : Obligations.PowerOnMeetsTheInvariant :=
  ⟨fun _ ha h => h.inv ha, resetIsAPowerOnState.inv (by decide)⟩

/-! ### The commands that start at power-on (R231) -/

section
variable {s : State} (h : s.PowerOn)
include h

theorem State.PowerOn.cmdReady : s.cmdReady = true := cmdReady_iff.2 ⟨h.fg, h.isrActive, h.fault⟩

theorem State.PowerOn.irqTakeable : s.irqTakeable = false := by
  simp [State.irqTakeable, State.irqPending, h.irqArmed]

/-- R201, R202: with no mark set, the other commands find a cause of their fault. -/
theorem State.PowerOn.commandFault_eq_none_iff {i : Instr} (hi : i ≠ .irqRx) :
    commandFault s i = none ↔ i = .init ∨ i = .tRbReset ∨ ∃ b, i = .tTxByte b := by
  cases i with
  | irqRx => exact absurd rfl hi
  | init => simp [commandFault, h.initDone]
  | readKey | writeKey => simp [commandFault, h.initDone]
  | tRbReset => simp [commandFault, h.irqArmed]
  | tRbTryPush => simp [commandFault, h.irqArmed, h.rbValid]
  | tRbIsEmpty | tRbPop => simp [commandFault, h.rbValid]
  | tTxByte b => simp [commandFault]

/-- What a command answers with no fault is whether it has a cause for one. -/
theorem State.PowerOn.exec_no_fault_iff (i : Instr) :
    (∃ t, exec i s = .next t ∧ t.fault = none) ↔ commandFault s i = none := by
  obtain ⟨t, ht⟩ := exec_answers i h.cmdReady h.headInRange h.tailInRange
  simp [ht, exec_fault_eq h.cmdReady ht]

end

/-- Settles O5: a command that starts without a fault is one that finds no cause for it, and the three that do have
their known results in a ready block. -/
theorem commandsThatStartWithoutFaultAtPowerOn : Obligations.CommandsThatStartWithoutFaultAtPowerOn := by
  intro s h
  refine ⟨h.fg, h.cmdReady, h.irqTakeable, fun i hi => (h.exec_no_fault_iff i).trans (h.commandFault_eq_none_iff hi),
    ?_, fun b => ⟨_, execTTxByte_ready h.cmdReady b, rfl, rfl⟩⟩
  rintro i (rfl | rfl)
  · exact ⟨_, execInit_first h.cmdReady h.initDone, rfl, rfl, rfl⟩
  · exact ⟨_, execTRbReset_unarmed h.cmdReady h.irqArmed, rfl, rfl, rfl⟩

end Sys2Proof.Machine
end

section
/-! Blocked states and hangs (spec/70_reset_and_hazards.md, R242): what a state in which an agent of the block has no
step enabled comes to, and which states of a run are hangs; the lemmas and the proof of the statement about them. -/

namespace Sys2Proof.Machine

/-! ### A state in which an agent has no step enabled -/

/-- A poll of a set busy flag is a transmit with a byte left. -/
theorem polling_iff {s : State} :
    s.polling = true ↔ s.txBusy = true ∧ ∃ b rest v, s.fg = .tx (b :: rest) v := by
  rcases hp : s.fg with _ | _ | ⟨_ | _, _⟩ | _ <;> simp [State.polling, hp]

/-- The foreground of a block without a fault has no step enabled while the handler runs, with no word to accept, or
at a poll of a set busy flag. -/
theorem fgEnabled_eq_false_iff {s : State} (hs : s.Inv) (hf : s.fault = none) :
    s.fgEnabled = false ↔ s.isrActive = true ∨ s.polling = true ∨ (s.fg = .idle ∧ s.port = none) := by
  have hh : s.fg ≠ .halted := hs.faultHalts.1 hf
  rw [polling_iff]
  cases hi : s.isrActive with
  | true => simp [State.fgEnabled, hi]
  | false =>
    cases hp : s.fg with
    | halted => exact absurd hp hh
    | idle | readKey => simp [State.fgEnabled, hf, hi, hp]
    | tx q v => cases q <;> simp [State.fgEnabled, hf, hi, hp]

/-- The interrupt agent of a block without a fault has no step enabled when no interrupt runs or is requested. -/
theorem irqEnabled_eq_false_iff {s : State} (hf : s.fault = none) :
    s.irqEnabled = false ↔ s.isrActive = false ∧ s.irqPending = false := by simp [State.irqEnabled, hf]

/-- R242, the first part: with neither agent able to step, the phase is Idle or polls. -/
theorem quiescent_or_polling_of_blocked {s : State} (hs : s.Inv) (hf : s.fault = none) (hfg : s.fgEnabled = false)
    (hirq : s.irqEnabled = false) : s.Quiescent ∨ s.polling = true := by
  obtain ⟨hi, hp⟩ := (irqEnabled_eq_false_iff hf).1 hirq
  rcases (fgEnabled_eq_false_iff hs hf).1 hfg with hrun | hpoll | ⟨hidle, -⟩
  · simp [hi] at hrun
  · exact .inr hpoll
  · exact .inl ⟨hf, hidle, hi, hp⟩

/-! ### A state that is no end of a run, in which an agent has no step enabled -/

/-- Neither a quiescent state nor a faulted one: the run has not ended in it. -/
def State.Unended (s : State) : Prop := ¬s.Quiescent ∧ ¬s.Faulted

theorem State.Unended.no_fault {s : State} (h : s.Unended) : s.fault = none := not_not.1 h.2

/-- The handler runs, or the foreground polls a set busy flag, or it is Idle with no word while an interrupt is
requested. -/
def State.ForegroundHeld (s : State) : Prop :=
  s.isrActive = true ∨ s.polling = true ∨ (s.fg = .idle ∧ s.port = none ∧ s.irqPending = true)

/-- A command is in progress and no interrupt runs or is requested. -/
def State.CommandAlone (s : State) : Prop :=
  s.fault = none ∧ s.fg ≠ .idle ∧ s.isrActive = false ∧ s.irqPending = false

theorem State.ForegroundHeld.no_fault {s : State} (h : s.ForegroundHeld) (hs : s.Inv) : s.fault = none := by
  rcases h with hrun | hpoll | ⟨hidle, -⟩
  · exact hs.isrNoFault hrun
  · obtain ⟨-, b, rest, v, hp⟩ := polling_iff.1 hpoll
    exact hs.faultHalts.2 (by simp [hp])
  · exact hs.faultHalts.2 (by simp [hidle])

theorem State.ForegroundHeld.not_quiescent {s : State} (h : s.ForegroundHeld) : ¬s.Quiescent := by
  intro hq
  rcases h with hrun | hpoll | ⟨-, -, hp⟩
  · simp [hq.noIsr] at hrun
  · simp [State.polling, hq.idle] at hpoll
  · simp [hq.noIrq] at hp

theorem unended_fgDisabled_iff {s : State} (hs : s.Inv) :
    s.Unended ∧ s.fgEnabled = false ↔ s.ForegroundHeld := by
  refine ⟨fun ⟨hu, hfg⟩ => ?_, fun h => ?_⟩
  · have hf : s.fault = none := hu.no_fault
    rcases (fgEnabled_eq_false_iff hs hf).1 hfg with hrun | hpoll | ⟨hidle, hport⟩
    · exact .inl hrun
    · exact .inr (.inl hpoll)
    · cases hi : s.isrActive with
      | true => exact .inl hi
      | false =>
        have hp : s.irqPending = true := eq_true_of_ne_false fun hp => hu.1 ⟨hf, hidle, hi, hp⟩
        exact .inr (.inr ⟨hidle, hport, hp⟩)
  · have hf : s.fault = none := h.no_fault hs
    have hoff : s.isrActive = true ∨ s.polling = true ∨ (s.fg = .idle ∧ s.port = none) :=
      h.imp_right (Or.imp_right fun ⟨hidle, hport, _⟩ => ⟨hidle, hport⟩)
    exact ⟨⟨h.not_quiescent, not_not.2 hf⟩, (fgEnabled_eq_false_iff hs hf).2 hoff⟩

theorem unended_irqDisabled_iff {s : State} : s.Unended ∧ s.irqEnabled = false ↔ s.CommandAlone := by
  refine ⟨fun ⟨hu, hirq⟩ => ?_, fun ⟨hf, hbusy, hi, hp⟩ => ?_⟩
  · have hf : s.fault = none := hu.no_fault
    obtain ⟨hi, hp⟩ := (irqEnabled_eq_false_iff hf).1 hirq
    exact ⟨hf, fun hidle => hu.1 ⟨hf, hidle, hi, hp⟩, hi, hp⟩
  · exact ⟨⟨fun q => hbusy q.idle, not_not.2 hf⟩, (irqEnabled_eq_false_iff hf).2 ⟨hi, hp⟩⟩

/-! ### Hangs -/

/-- A hang is a state from which on no state ends the run and one same agent has no step enabled. -/
theorem isHang_iff_agent {τ : Nat → State} {k : Nat} :
    IsHang τ k ↔ (∀ j, k ≤ j → (τ j).Unended ∧ (τ j).fgEnabled = false) ∨
      ∀ j, k ≤ j → (τ j).Unended ∧ (τ j).irqEnabled = false := by
  constructor
  · rintro ⟨hu, agent, hoff⟩
    cases agent with
    | foreground => exact .inl fun j hj => ⟨hu j hj, hoff j hj⟩
    | interrupt => exact .inr fun j hj => ⟨hu j hj, hoff j hj⟩
  · rintro (h | h)
    · exact ⟨fun j hj => (h j hj).1, .foreground, fun j hj => (h j hj).2⟩
    · exact ⟨fun j hj => (h j hj).1, .interrupt, fun j hj => (h j hj).2⟩

/-- A move of a block without a fault whose foreground has no step enabled leaves the phase. -/
theorem runMove_keeps_fg_of_disabled {m : Move} {s t : State} (h : runMove m s = .next t) (hf : s.fault = none)
    (hfg : s.fgEnabled = false) : t.fg = s.fg := by
  cases m with
  | foreground d =>
    rw [runMove_foreground_holds d hf hfg] at h
    injection h with h
    rw [h]
  | _ => rw [(runMove_effect h).frame_of_not_foreground (by simp)]

section
variable {m : Nat → Move} {τ : Nat → State} (hrun : IsRun m τ) (h0 : (τ 0).Inv)
include hrun h0

theorem IsRun.inv (j : Nat) : (τ j).Inv := by
  induction j with
  | zero => exact h0
  | succ j ih => exact (hrun.effect j).keeps_inv ih

theorem IsRun.isHang_iff {k : Nat} :
    IsHang τ k ↔ (∀ j, k ≤ j → (τ j).ForegroundHeld) ∨ ∀ j, k ≤ j → (τ j).CommandAlone := by
  simp only [isHang_iff_agent, unended_irqDisabled_iff, unended_fgDisabled_iff (hrun.inv h0 _)]

/-- The phase stays where it is over every stretch of the run in which the foreground has no step enabled. -/
theorem IsRun.keeps_fg_of_disabled {k : Nat} (hf : (τ k).fault = none) {j : Nat} (hj : k ≤ j)
    (hfg : ∀ i, k ≤ i → i < j → (τ i).fgEnabled = false) : (τ j).fg = (τ k).fg := by
  induction j, hj using Nat.le_induction with
  | base => rfl
  | succ j hj ih =>
    have hsame : (τ j).fg = (τ k).fg := ih fun i hki hij => hfg i hki (Nat.lt_succ_of_lt hij)
    have hfj : (τ j).fault = none := (hrun.inv h0 j).faultHalts.2 (hsame ▸ (hrun.inv h0 k).faultHalts.1 hf)
    exact (runMove_keeps_fg_of_disabled (hrun.2 j) hfj (hfg j hj (Nat.lt_succ_self j))).trans hsame

/-- R175: a transmit with a byte left polls for good while the busy flag stays set. -/
theorem IsRun.polling_of_stuck {k : Nat} {b : Byte} {rest : List Byte} {v : KeyCode}
    (hp : (τ k).fg = .tx (b :: rest) v) (hb : ∀ j, k ≤ j → (τ j).txBusy = true) {j : Nat} (hj : k ≤ j) :
    (τ j).polling = true := by
  have hf : (τ k).fault = none := (hrun.inv h0 k).faultHalts.2 (by simp [hp])
  have hsame : (τ j).fg = (τ k).fg := by
    induction j using Nat.strong_induction_on with
    | _ j ih =>
      exact hrun.keeps_fg_of_disabled h0 hf hj fun i hki hij => fgEnabled_of_poll ((ih i hij hki).trans hp) (hb i hki)
  exact polling_iff.2 ⟨hb j hj, b, rest, v, hsame.trans hp⟩

end

/-- Settles O58: with no step enabled the invariant leaves two phases. A hang is unended with one agent disabled at
every point, which each state of the run tells of itself; and the two named hangs hold the foreground throughout. -/
theorem blockedStatesAndHangs : Obligations.BlockedStatesAndHangs := by
  refine ⟨fun s hs hfg hirq => ?_, fun m τ k hrun h0 => ⟨hrun.isHang_iff h0, fun hi => ?_, fun b rest v hp hb => ?_,
    fun hf hfg j hj => hrun.keeps_fg_of_disabled h0 hf hj fun i hki _ => hfg i hki⟩⟩
  · by_cases hf : s.fault = none
    · exact (quiescent_or_polling_of_blocked hs hf hfg hirq).imp_right .inr
    · exact .inr (.inl hf)
  · exact (hrun.isHang_iff h0).2 (.inl fun j hj => .inl (hi j hj))
  · exact (hrun.isHang_iff h0).2 (.inl fun j hj => .inr (.inl (hrun.polling_of_stuck h0 hp hb hj)))

end Sys2Proof.Machine
end

section
/-! What a run shows (R242): the words that a run has accepted and not answered and the bytes that it has still to
transmit, kept in balance with the responses and the transmit log by every move; the lemmas and the proof of the
statement about it. -/

namespace Sys2Proof.Machine

/-! ### What a block owes -/

/-- The accepted words that have no response yet, and the bytes still to be transmitted for them. -/
structure Dues where
  words : List CmdWord
  bytes : List Byte

def Dues.none : Dues := { words := [], bytes := [] }

/-- What a phase may owe: nothing when Idle, and otherwise the response to one word, which the command in progress
answers as that word may be answered. A faulted block pays no more. -/
inductive Owes (table : List SequenceEntry) : Phase → Dues → Prop where
  | idle : Owes table .idle .none
  | readKey (acc : List Byte) (w : CmdWord) (hd : decode (.command w) = some .readKey) :
      Owes table (.readKey acc) { words := [w], bytes := [] }
  | tx (q : List Byte) (v : KeyCode) (w : CmdWord) (ha : mayAnswer table w v) :
      Owes table (.tx q v) { words := [w], bytes := q }
  | halted (w : CmdWord) (q : List Byte) : Owes table .halted { words := [w], bytes := q }

section
variable {table : List SequenceEntry} {d : Dues}

theorem Owes.of_idle (h : Owes table .idle d) : d = .none := by cases h; rfl

theorem Owes.of_ready {s : State} (h : Owes table s.fg d) (hr : s.cmdReady = true) : d = .none := by
  obtain ⟨hidle, -, -⟩ := cmdReady_iff.1 hr
  exact (hidle ▸ h).of_idle

theorem Owes.words_length {p : Phase} (h : Owes table p d) : d.words.length = if p = .idle then 0 else 1 := by
  cases h <;> rfl

theorem Owes.not_idle {p : Phase} {w : CmdWord} {q : List Byte} (h : Owes table p { words := [w], bytes := q }) :
    p ≠ .idle := by
  rintro rfl
  simpa using h.words_length

end

/-! ### A run in balance -/

/-- The run of a record, from a state that owes `d` to one that owes `d'`: the words owed and accepted have been
answered, in order, but for those owed at the end, and so have their bytes been transmitted. -/
def Balanced (table : List SequenceEntry) (s : State) (d : Dues) (r : RunRecord) (d' : Dues) : Prop :=
  r.final.txLog ++ d'.bytes = s.txLog ++ d.bytes ++ r.accepted.flatMap (wordBytes table) ∧
    ∃ answered, d.words ++ r.accepted = answered ++ d'.words ∧
      List.Forall₂ (mayAnswer table) answered r.responses

/-- The record of one move. -/
def moveRecord (m : Move) (s t : State) : RunRecord where
  accepted := (acceptedWord m s).toList
  responses := (completedResponse m s t).toList
  final := t

section
variable {table : List SequenceEntry} {m : Move} {s t : State} {d d' : Dues}

theorem balanced_nil (table : List SequenceEntry) (s : State) (d : Dues) :
    Balanced table s d { accepted := [], responses := [], final := s } d :=
  ⟨by simp, [], by simp, .nil⟩

/-- A move in balance before a run in balance. -/
theorem Balanced.before {r : RunRecord} {d'' : Dues} (hmove : Balanced table s d (moveRecord m s t) d')
    (hrest : Balanced table t d' r d'') : Balanced table s d (r.before m s t) d'' := by
  obtain ⟨hlog, answered, hwords, hanswers⟩ := hmove
  obtain ⟨hlog', answered', hwords', hanswers'⟩ := hrest
  simp only [moveRecord] at hlog hwords hanswers
  refine ⟨?_, answered ++ answered', ?_, ?_⟩
  · simp [hlog', hlog]
  · simp only [RunRecord.before_accepted, ← List.append_assoc, hwords]
    simp only [List.append_assoc, hwords']
  · exact List.rel_append hanswers hanswers'

/-- A move that accepts and completes nothing pays some bytes at most. -/
theorem balanced_of_silent (hacc : acceptedWord m s = none) (hresp : completedResponse m s t = none)
    (hwords : d'.words = d.words) (hlog : t.txLog ++ d'.bytes = s.txLog ++ d.bytes) :
    Balanced table s d (moveRecord m s t) d' :=
  ⟨by simp [moveRecord, hacc, hlog], [], by simp [moveRecord, hacc, hwords], by simp [moveRecord, hresp]⟩

/-- A move that accepts nothing and leaves the phase and the transmit log leaves what is owed. -/
theorem balanced_of_same_phase (hacc : acceptedWord m s = none) (hfg : t.fg = s.fg) (hlog : t.txLog = s.txLog) :
    Balanced table s d (moveRecord m s t) d :=
  balanced_of_silent hacc (completedResponse_of_same_phase hacc hfg) rfl (by rw [hlog])

/-- An accepted word that is not answered at once is owed. -/
theorem balanced_of_accepted {w : CmdWord} (hacc : acceptedWord m s = some w) (hbusy : t.fg ≠ .idle)
    (hlog : t.txLog = s.txLog) :
    Balanced table s .none (moveRecord m s t) { words := [w], bytes := wordBytes table w } :=
  ⟨by simp [moveRecord, hacc, hlog, Dues.none], [], by simp [moveRecord, hacc, Dues.none],
    by simp [moveRecord, completedResponse_of_not_idle hbusy]⟩

/-- A command that completes answers the one word owed. -/
theorem balanced_of_completed {u : State} {v : BitVec 32} {w : CmdWord} (hbusy : s.fg ≠ .idle)
    (hacc : acceptedWord m s = none) (hlog : u.txLog = s.txLog) (ha : mayAnswer table w v) :
    Balanced table s { words := [w], bytes := [] } (moveRecord m s (respond v u)) .none :=
  ⟨by simp [moveRecord, hacc, hlog, Dues.none], [w], by simp [moveRecord, hacc, Dues.none],
    by simpa [moveRecord, completedResponse_of_respond (.inl hbusy)] using ha⟩

/-- An accepted word that transmits nothing is answered at once. -/
theorem balanced_of_answered {u : State} {v : BitVec 32} {w : CmdWord} (hacc : acceptedWord m s = some w)
    (hbytes : wordBytes table w = []) (hlog : u.txLog = s.txLog) (ha : mayAnswer table w v) :
    Balanced table s .none (moveRecord m s (respond v u)) .none := by
  have hresp : completedResponse m s (respond v u) = some v := completedResponse_of_respond (.inr (by simp [hacc]))
  exact ⟨by simp [moveRecord, hacc, hbytes, hlog, Dues.none], [w], by simp [moveRecord, hacc, Dues.none],
    by simpa [moveRecord, hresp] using ha⟩

end

/-! ### Every move is in balance -/

/-- R146: a session is answered with an entry's code or with a byte, the empty one with the byte 0. -/
theorem sessionResponse_cases (table : List SequenceEntry) (acc : List Byte) :
    (∃ b : Byte, sessionResponse table acc = zext32 b) ∨ ∃ e ∈ table, sessionResponse table acc = e.code := by
  by_cases hzero : exactCode table acc = 0
  · refine .inl ?_
    rcases List.eq_nil_or_concat' acc with rfl | ⟨front, b, rfl⟩
    · exact ⟨0, by simp [sessionResponse, hzero, zext32]⟩
    · exact ⟨b, sessionResponse_last hzero⟩
  · rcases exactCode_cases table acc with ⟨e, he, -, hcode⟩ | ⟨-, hzero'⟩
    · exact .inr ⟨e, he, (sessionResponse_of_code hzero).trans hcode⟩
    · exact absurd hzero' hzero

/-- R76, R78: a command carried out at once answers as its word may be answered and transmits nothing; any other
leaves its response and its bytes owed. -/
theorem CommandEffect.answers_or_owes {i : Instr} {s t : State} {w : CmdWord} (h : CommandEffect s i t)
    (hd : decode (.command w) = some i) :
    (wordBytes s.cfg.table w = [] ∧
        ∃ u v, t = respond v u ∧ u.txLog = s.txLog ∧ mayAnswer s.cfg.table w v) ∨
      Owes s.cfg.table t.fg { words := [w], bytes := wordBytes s.cfg.table w } := by
  cases h with
  | raised => exact .inr (.halted w _)
  | readKey =>
    rw [show wordBytes s.cfg.table w = [] by simp [wordBytes, hd]]
    exact .inr (.readKey [] w hd)
  | writeKey code =>
    rw [show wordBytes s.cfg.table w = encodeKey s.cfg.table code by simp [wordBytes, hd]]
    exact .inr (.tx _ 0 w (by simp [mayAnswer, hd]))
  | tTxByte b =>
    rw [show wordBytes s.cfg.table w = [b] by simp [wordBytes, hd]]
    exact .inr (.tx [b] 0 w (by simp [mayAnswer, hd]))
  | init | tRbReset | pushFull | pushStore | tRbPop =>
    exact .inl ⟨by simp [wordBytes, hd], _, _, rfl, rfl, by simp [mayAnswer, hd]⟩
  | tRbIsEmpty =>
    refine .inl ⟨by simp [wordBytes, hd], _, _, rfl, rfl, ?_⟩
    cases s.ringEmpty <;> simp [mayAnswer, hd, boolResponse]

section
variable {m : Move} {s t : State} {d : Dues}

theorem acceptedWord_of_busy {p : Phase} (m : Move) (hp : s.fg = p) (hbusy : p ≠ .idle) : acceptedWord m s = none :=
  acceptedWord_of_not_ready m (by simp [State.cmdReady, hp, hbusy])

/-- A foreground move that holds accepts nothing. -/
theorem acceptedWord_of_hold {busy : Bool}
    (h : s.isrActive = true ∨ (s.fg = .idle ∧ s.port = none) ∨ s.fg = .halted ∨
      (s.txBusy = true ∧ ∃ b rest v, s.fg = .tx (b :: rest) v)) : acceptedWord (.foreground busy) s = none := by
  rcases h with hi | ⟨-, hport⟩ | hp | ⟨-, b, rest, v, hp⟩
  · exact acceptedWord_of_not_ready _ (by simp [State.cmdReady, hi])
  · simp [acceptedWord, hport]
  · exact acceptedWord_of_busy _ hp (by simp)
  · exact acceptedWord_of_busy _ hp (by simp)

/-- What is owed after a move, and that the move is in balance. -/
theorem MoveEffect.balanced (h : MoveEffect s m t) (howes : Owes s.cfg.table s.fg d) :
    ∃ d', Owes s.cfg.table t.fg d' ∧ Balanced s.cfg.table s d (moveRecord m s t) d' := by
  cases m with
  | foreground busy =>
    cases h with
    | fgHold _ _ hhold => exact ⟨d, howes, balanced_of_same_phase (acceptedWord_of_hold hhold) rfl rfl⟩
    | reserved _ w hr hport =>
      have hacc : acceptedWord (.foreground busy) s = some w := (acceptedWord_of_ready busy hr).trans hport
      obtain rfl := howes.of_ready hr
      exact ⟨_, .halted w _, balanced_of_accepted hacc (by simp) rfl⟩
    | command _ w i _ hr hport hd he =>
      have hacc : acceptedWord (.foreground busy) s = some w := (acceptedWord_of_ready busy hr).trans hport
      obtain rfl := howes.of_ready hr
      obtain ⟨-, -, -, hlog⟩ := he.keeps_isr_and_device
      rcases he.answers_or_owes hd with ⟨hbytes, u, v, rfl, hu, ha⟩ | hleft
      · exact ⟨.none, .idle, balanced_of_answered hacc hbytes hu ha⟩
      · exact ⟨_, hleft, balanced_of_accepted hacc hleft.not_idle hlog⟩
    | iterate _ acc _ _ hp =>
      rw [hp] at howes
      cases howes with
      | readKey _ w hw =>
        exact ⟨_, .readKey _ w hw, balanced_of_silent (acceptedWord_of_busy _ hp (by simp))
          (completedResponse_of_not_idle (by simp)) rfl rfl⟩
    | finish _ acc _ _ hp =>
      rw [hp] at howes
      cases howes with
      | readKey _ w hw =>
        exact ⟨.none, .idle, balanced_of_completed (by simp [hp]) (acceptedWord_of_busy _ hp (by simp)) rfl
          (by simpa [mayAnswer, hw] using sessionResponse_cases s.cfg.table acc)⟩
    | txWrite _ b rest v _ _ hp =>
      rw [hp] at howes
      cases howes with
      | tx _ _ w ha =>
        exact ⟨_, .tx rest v w ha, balanced_of_silent (acceptedWord_of_busy _ hp (by simp))
          (completedResponse_of_not_idle (by simp)) rfl (by simp)⟩
    | txDone _ v _ _ hp =>
      rw [hp] at howes
      cases howes with
      | tx _ _ w ha =>
        exact ⟨.none, .idle, balanced_of_completed (by simp [hp]) (acceptedWord_of_busy _ hp (by simp)) rfl ha⟩
  | _ =>
    have hframe := h.frame_of_not_foreground (by simp)
    have hfg : t.fg = s.fg := by rw [hframe]
    exact ⟨d, hfg ▸ howes, balanced_of_same_phase rfl hfg (by rw [hframe])⟩

end

/-! ### The run as a whole -/

/-- Every finite run is in balance, by induction on its moves. -/
theorem runRecord_balanced {moves : List Move} {s : State} {d : Dues} {r : RunRecord}
    (howes : Owes s.cfg.table s.fg d) (h : runRecord moves s = .next r) :
    ∃ d', Owes s.cfg.table r.final.fg d' ∧ Balanced s.cfg.table s d r d' := by
  induction moves generalizing s d r with
  | nil =>
    injection h with h
    subst h
    exact ⟨d, howes, balanced_nil _ s d⟩
  | cons m ms ih =>
    obtain ⟨t, rest, hm, hrest, rfl⟩ := runRecord_cons h
    have heff : MoveEffect s m t := runMove_effect hm
    obtain ⟨d₁, howes₁, hmove⟩ := heff.balanced howes
    rw [← heff.keeps_cfg] at howes₁ hmove ⊢
    obtain ⟨d₂, howes₂, hrun⟩ := ih howes₁ hrest
    exact ⟨d₂, howes₂, hmove.before hrun⟩

/-- Each word answered has its response: the accepted words without one are those owed. -/
theorem Balanced.accepted_length {table : List SequenceEntry} {s : State} {r : RunRecord} {d : Dues}
    (h : Balanced table s .none r d) : r.accepted.length = r.responses.length + d.words.length := by
  obtain ⟨-, answered, hwords, hanswers⟩ := h
  rw [Dues.none, List.nil_append] at hwords
  rw [hwords, List.length_append, hanswers.length_eq]

/-- A run that owes nothing at its ends has answered every word and transmitted its bytes. -/
theorem Balanced.settled {table : List SequenceEntry} {s : State} {r : RunRecord} (h : Balanced table s .none r .none) :
    r.final.txLog = s.txLog ++ r.accepted.flatMap (wordBytes table) ∧
      List.Forall₂ (mayAnswer table) r.accepted r.responses := by
  obtain ⟨hlog, answered, hwords, hanswers⟩ := h
  obtain rfl : r.accepted = answered := by simpa [Dues.none] using hwords
  exact ⟨by simpa [Dues.none] using hlog, hanswers⟩

/-- Settles O60: the run starts with nothing owed and is in balance, and what its last phase owes is known. -/
theorem whatARunShows : Obligations.WhatARunShows := by
  intro s moves r _ hidle h
  have hstart : Owes s.cfg.table s.fg .none := hidle ▸ .idle
  obtain ⟨d, howes, hbal⟩ := runRecord_balanced hstart h
  refine ⟨hbal.accepted_length.trans (by rw [howes.words_length]), fun hq => ?_⟩
  rw [hq.idle] at howes
  obtain rfl := howes.of_idle
  obtain ⟨hlog, hanswers⟩ := hbal.settled
  exact ⟨⟨r, h, hq, by rw [RunRecord.shown, hlog]⟩, hanswers⟩

end Sys2Proof.Machine
end
